-- ==== Sys2Proof/Word.lean ====
section
/-! DEFINITION. The one word type of the hardware: a byte (00_scope.md R7). Every register that software sees is one
byte wide and every Memory cell holds one byte; indices and counts are natural numbers (D2, D3). -/

namespace Sys2Proof

/-- R7: "A byte is an unsigned 8-bit value, 0 to 255." -/
abbrev Byte := BitVec 8

end Sys2Proof
end

