-- ==== Sys2Proof/Syntax.lean ====
section
/-! DEFINITION. The instruction set as syntax (30_encoding.md R54, R55): one constructor of `Instr` per row of
spec/opcode_table.json, with the operands its format gives it. -/

namespace Sys2Proof

/-- R55: the six variants the decoder tells apart, from the opcode byte alone. -/
inductive Opcode where
  | nop
  | mov
  | add
  | sub
  | end_
  | unknown (b : Byte)
deriving DecidableEq, Repr

/-- R54: an instruction with its operand byte where its format has one (R51, R52). -/
inductive Instr where
  /-- NOP, `00 vv` (R85); `v` is fetched and otherwise ignored. -/
  | nop (v : Byte)
  /-- MOV, `01 vv` (R86). -/
  | mov (v : Byte)
  /-- ADD, `02 vv` (R87). -/
  | add (v : Byte)
  /-- SUB, `03 vv` (R88). -/
  | sub (v : Byte)
  /-- END, the terminator, `87` (R90). -/
  | end_
  /-- UNKNOWN, any other opcode byte `bb` (R91); it has no operand of its own. -/
  | unknown (b : Byte)
deriving DecidableEq, Repr

end Sys2Proof
end

