-- ==== Sys2Proof/WellFormed.lean ====
section
/-! DEFINITION. Which terms of `Instr` are instructions of the hardware: an OI operand is unconstrained (30_encoding.md
R57); an UNKNOWN byte is one of the 251 that no defined opcode takes (R56). -/

namespace Sys2Proof

/-- R54: the five opcode bytes the table defines. -/
def definedOpcodes : List Byte := [0x00, 0x01, 0x02, 0x03, 0x87]

/-- R56, R57: a term that some bytes of Memory stand for. -/
def Instr.wellFormed : Instr → Bool
  | .nop _ => true
  | .mov _ => true
  | .add _ => true
  | .sub _ => true
  | .end_ => true
  | .unknown b => !definedOpcodes.contains b

end Sys2Proof
end

