-- ==== Sys2Proof/Decode.lean ====
section
/-! DEFINITION. The decoder of 30_encoding.md (R50 to R58), total on any bytes, and the encoder written from the same
table (R54). -/

namespace Sys2Proof

/-- R55: "The decoder is a total function from a byte to one of six variants". The whole byte is compared. -/
def decodeOpcode (b : Byte) : Opcode :=
  if b = 0x00 then .nop
  else if b = 0x01 then .mov
  else if b = 0x02 then .add
  else if b = 0x03 then .sub
  else if b = 0x87 then .end_
  else .unknown b

/-- R53: the decoded variant with the byte fetched from `i + 1` as its immediate. END and UNKNOWN take none (R52). -/
def Opcode.withOperand (o : Opcode) (v : Byte) : Instr :=
  match o with
  | .nop => .nop v
  | .mov => .mov v
  | .add => .add v
  | .sub => .sub v
  | .end_ => .end_
  | .unknown b => .unknown b

/-- R51, R52: whether the variant has format OI, so that the byte after the opcode belongs to it. -/
def Opcode.hasOperand : Opcode → Bool
  | .nop => true
  | .mov => true
  | .add => true
  | .sub => true
  | .end_ => false
  | .unknown _ => false

/-- Why some bytes are no instruction. Every opcode byte decodes (R56), so only bytes that end too early are rejected. -/
inductive DecodeError where
  /-- There is no opcode byte. -/
  | noOpcode
  /-- The opcode has format OI and its operand byte is missing (R51). -/
  | noOperand
deriving DecidableEq, Repr

/-- R50, R58: the instruction at the head of a byte stream, and the bytes after it. Its length comes from its opcode
byte alone. -/
def decode : List Byte → Except DecodeError (Instr × List Byte)
  | [] => .error .noOpcode
  | op :: rest =>
    if (decodeOpcode op).hasOperand then
      match rest with
      | [] => .error .noOperand
      | v :: rest' => .ok ((decodeOpcode op).withOperand v, rest')
    else .ok ((decodeOpcode op).withOperand 0, rest)

/-- R54: the bytes of an instruction, opcode first (R37). -/
def encode : Instr → List Byte
  | .nop v => [0x00, v]
  | .mov v => [0x01, v]
  | .add v => [0x02, v]
  | .sub v => [0x03, v]
  | .end_ => [0x87]
  | .unknown b => [b]

/-- The bytes of a word numbered as spec/opcode_table.json numbers them: bit 0 is the least significant bit of the
first byte, bits 15..8 are the second byte. Bits from `nbits` up are 0. The longest instruction has two bytes (R50). -/
def wordBytes (nbits w : Nat) : List Byte :=
  [BitVec.ofNat 8 (w % 2 ^ nbits), BitVec.ofNat 8 (w % 2 ^ nbits / 256)]

/-- The instruction the decoder reads from a word of the opcode table. -/
def decodeTableWord (nbits w : Nat) : Option Instr :=
  match decode (wordBytes nbits w) with
  | .ok (i, _) => some i
  | .error _ => none

end Sys2Proof
end

