-- ==== Sys2Proof/Config.lean ====
section
/-! DEFINITION. The parameters of the hardware (00_scope.md R6). An instance is built with one value of each and no
step writes them; a state carries its instance's parameters (log 8, 10), so that a claim about every state is a claim
about every value of them. The widths `PCW` and `CW` are not taken: the spec's model holds `pc` and `cycle_count` as
natural numbers (D2, D3; log 3). -/

namespace Sys2Proof

/-- R6: the two parameters the model takes. -/
structure Config where
  /-- `N`, the number of byte cells of Memory. -/
  memorySize : Nat
  /-- `DIAG`, whether the unknown-opcode diagnostic is emitted (R23, D8). -/
  diagEnabled : Bool
deriving DecidableEq, Repr

/-- R6: this hardware, N = 32, with `DIAG` at the spec's default. -/
def Config.canonical : Config where
  memorySize := 32
  diagEnabled := true

end Sys2Proof
end

