-- ==== Sys2Proof/Machine/State.lean ====
section
/-! DEFINITION. The state of the machine (10_state.md), the reasons a step can stop, and the state after reset. The six
elements of R19 stand beside the Memory component, the instance's parameters and the record of the diagnostic output,
which R19 names as not state: the host's interface has one state and one step, so the model carries them here (log 1,
8, 10). -/

namespace Sys2Proof.Machine

/-- R100, D14: the three named conditions, with no numeric codes; none is recorded in the state. -/
inductive Condition where
  /-- R101: an index >= N was read or written. -/
  | outOfRange
  /-- R102: `load` was given a byte sequence that is not exactly N bytes. -/
  | malformedLoad
  /-- R103: an opcode byte that is no defined opcode; not an error. -/
  | unknownOpcode
deriving DecidableEq, Repr

/-- The reasons a step can stop with a fault: there is none. R116: "no run faults"; every byte in every position has a
defined outcome (93_implementation_defined.md section 1). Safe and exact: log 14. -/
inductive Fault : Type
deriving DecidableEq, Repr

/-- The reasons the model gives no meaning. -/
inductive Refusal where
  /-- An instruction that has no meaning yet; no arm of `exec` answers it. Safe. -/
  | notModelled (mnemonic : String)
  /-- Raised by the step when it must read a cell below N that no load has given a value (R36, D10, U2: "no run starts
  on such a Memory"). Safe: log 1. -/
  | unloadedMemory
  /-- Raised by `launch`, never by a step, when the image is not exactly N bytes (R102, D11, U1). Safe: log 11. -/
  | malformedLoad
deriving DecidableEq, Repr

/-- The cells of Memory that hold a value (R30), as pairs of index and byte with strictly rising indices; see
`Memory.wf` for the canonical form and `Memory.unlisted` for what an index not listed reads as. -/
abbrev Memory := List Host.Cell

/-- R23: one event of the diagnostic output, "the cursor of the unknown byte" and "the byte". -/
structure DiagEvent where
  pc : Nat
  op : Byte
deriving DecidableEq, Repr

/-- The machine. -/
@[ext]
structure State where
  /-- R6: the instance's parameters; no step writes them. -/
  config : Config
  /-- R30, R35: the Memory component; no step writes it. -/
  mem : Memory
  /-- R10: the accumulator, the only general-purpose register. -/
  acc : Byte
  /-- R11: the instruction register, the last fetched opcode byte. -/
  ir : Byte
  /-- R12: the operand register, the last fetched operand byte. -/
  opr : Byte
  /-- R13, R14: the cursor, an index into Memory, 0..N. -/
  pc : Nat
  /-- R15: true is `Running`, false is `Halted`. -/
  running : Bool
  /-- R16: the number of executed or skipped instructions. -/
  cycleCount : Nat
  /-- R23: the diagnostic output so far, oldest first; no rule reads it. -/
  diag : List DiagEvent
deriving DecidableEq, Repr

/-- R21: "all registers zeroed and `running = true`"; `pc = 0` is the spec's decision D1 (log 2). Memory is not touched by
reset (R122) and nothing has been loaded into it (log 1). -/
def State.reset : State where
  config := Config.canonical
  mem := []
  acc := 0x00
  ir := 0x00
  opr := 0x00
  pc := 0
  running := true
  cycleCount := 0
  diag := []

end Sys2Proof.Machine
end

