-- ==== Sys2Proof/Machine/Ops.lean ====
section
/-! DEFINITION. The shared operations: Memory's contract (20_memory.md R32 to R34), the writes of the registers, and
the parts of the step that follow the dispatch (40_fetch_decode_execute.md R71 to R73).

There is no operation that takes an exception and none that returns from one: R108, "There is no trap entry. No
condition saves state, changes a mode, switches a stack, masks anything or transfers control to a handler"; R109,
"There is no trap return". The whole response to a condition inside the loop is `State.halt`. -/

namespace Sys2Proof.Machine

/-! ### Memory -/

/-- What an index below N that nothing has loaded or written reads as: no value (R36, "A reader must not assume that an
unloaded Memory holds zeros"; log 1). -/
def Memory.unlisted : Option Byte := none

/-- The value of one cell, where it has one. -/
def Memory.find : Memory → Nat → Option Byte
  | [], _ => Memory.unlisted
  | (k, b) :: m, a => if k = a then some b else Memory.find m a

/-- Gives one cell a value and keeps the indices rising. -/
def Memory.put : Memory → Nat → Byte → Memory
  | [], a, v => [(a, v)]
  | (k, b) :: m, a, v =>
    if a < k then (a, v) :: (k, b) :: m
    else if a = k then (a, v) :: m
    else (k, b) :: Memory.put m a v

/-- The cells that hold `bytes` from index `a` on. -/
def Memory.ofBytes (a : Nat) : List Byte → Memory
  | [] => []
  | b :: bs => (a, b) :: Memory.ofBytes (a + 1) bs

/-- The canonical form of the cells of an N-cell Memory: indices strictly rising and below N. No entry can equal what
an unlisted index reads as, which is no value. -/
abbrev Memory.wf (n : Nat) (m : Memory) : Prop :=
  m.Pairwise (fun c d => c.1 < d.1) ∧ ∀ c ∈ m, c.1 < n

/-- What the read primitive answers (R33), with the model's own third answer for a cell that holds no value (log 1). -/
inductive ReadResult where
  | ok (b : Byte)
  | fail (c : Condition)
  | unloaded
deriving DecidableEq, Repr

/-- What `write` and `load` leave: Memory afterwards, and the condition if the call failed. -/
structure MemResult where
  mem : Memory
  failure : Option Condition
deriving DecidableEq, Repr

/-- R33: `MemRead(a, 1)`. The only failure test is `a >= N`; an index never wraps. -/
def Memory.read (n : Nat) (m : Memory) (a : Nat) : ReadResult :=
  if n ≤ a then .fail .outOfRange
  else match Memory.find m a with
    | some b => .ok b
    | none => .unloaded

/-- R34: `MemWrite(a, 1, v)`. No instruction calls it. -/
def Memory.write (n : Nat) (m : Memory) (a : Nat) (v : Byte) : MemResult :=
  if n ≤ a then { mem := m, failure := some .outOfRange }
  else { mem := Memory.put m a v, failure := none }

/-- R32: `load(bytes)` replaces the full contents; an input that is not exactly N bytes is rejected and Memory keeps
what it held (D11). -/
def Memory.load (n : Nat) (m : Memory) (bytes : List Byte) : MemResult :=
  if bytes.length = n then { mem := Memory.ofBytes 0 bytes, failure := none }
  else { mem := m, failure := some .malformedLoad }

/-- The machine's read of one cell of its Memory (R24). -/
def State.memRead (s : State) (a : Nat) : ReadResult :=
  Memory.read s.config.memorySize s.mem a

/-! ### Registers -/

/-- R10: `acc <- v`. -/
def State.setAcc (s : State) (v : Byte) : State := { s with acc := v }

/-- R11: `ir <- op`. -/
def State.setIr (s : State) (op : Byte) : State := { s with ir := op }

/-- R12: `opr <- v`. -/
def State.setOpr (s : State) (v : Byte) : State := { s with opr := v }

/-- R7: `halt`, that is `running <- false`. -/
def State.halt (s : State) : State := { s with running := false }

/-! ### After the dispatch -/

/-- R71, step 5: `cycle_count <- cycle_count + 1`. -/
def State.count (s : State) : State := { s with cycleCount := s.cycleCount + 1 }

/-- R72, step 6: `pc <- i + len`, on natural numbers. -/
def State.advance (s : State) (len : Nat) : State := { s with pc := s.pc + len }

/-- R73, step 7: if the new cursor is `>= N`, halt. -/
def State.checkEnd (s : State) : State :=
  if s.config.memorySize ≤ s.pc then s.halt else s

/-- R71 to R73: what every dispatched instruction does after its own effect, given the length it returned. -/
def State.retire (s : State) (len : Nat) : State :=
  ((s.count).advance len).checkEnd

/-- R23, R91: `if DIAG: emit diag(i, b)`. -/
def State.emitDiag (s : State) (b : Byte) : State :=
  match s.config.diagEnabled with
  | true => { s with diag := s.diag ++ [{ pc := s.pc, op := b }] }
  | false => s

end Sys2Proof.Machine
end

