-- ==== Sys2Proof/Machine/Control.lean ====
section
/-! DEFINITION. END and the unknown opcode (42_control_ops.md), from the point where the loop has written `ir` (R66)
and, for the unknown opcode, `opr` (R68; log 16). -/

namespace Sys2Proof.Machine

/-- R67, R90: "halts execution (loop terminates)"; not counted, the cursor stays at the END byte (D6). -/
def execEnd (s : State) : Host.Outcome State Fault Refusal :=
  .next s.halt

/-- R91: "no register effect, loop does not halt, cursor advances by 1", with the diagnostic when `DIAG` is true. -/
def execUnknown (b : Byte) (s : State) : Host.Outcome State Fault Refusal :=
  .next ((s.emitDiag b).retire 1)

end Sys2Proof.Machine
end

