-- ==== Sys2Proof/Machine/Flags.lean ====
section
/-! DEFINITION. The arithmetic of 41_data_ops.md R89. There are no flags to compute: 10_state.md R17, "ADD and SUB wrap
and record no carry, borrow, zero, sign or overflow indication anywhere". -/

namespace Sys2Proof.Machine

/-- R87, R89: `(a + v) mod 256`; the carry out of bit 7 is lost. -/
def addBytes (a v : Byte) : Byte := a + v

/-- R88, R89: `(a - v) mod 256`; the borrow is lost. -/
def subBytes (a v : Byte) : Byte := a - v

end Sys2Proof.Machine
end

