-- ==== Sys2Proof/Machine/Data.lean ====
section
/-! DEFINITION. The data instructions NOP, MOV, ADD, SUB (41_data_ops.md), from the dispatch on: the loop has already
written `ir` with the opcode and `opr` with the operand `v` (R66, R68; log 16). -/

namespace Sys2Proof.Machine

/-- R85: "no effect", length 2. -/
def execNop (_v : Byte) (s : State) : Host.Outcome State Fault Refusal :=
  .next (s.retire 2)

/-- R86: "accumulator := operand", length 2. -/
def execMov (v : Byte) (s : State) : Host.Outcome State Fault Refusal :=
  .next ((s.setAcc v).retire 2)

/-- R87: "accumulator := accumulator + operand (wrapping)", length 2. -/
def execAdd (v : Byte) (s : State) : Host.Outcome State Fault Refusal :=
  .next ((s.setAcc (addBytes s.acc v)).retire 2)

/-- R88: the accumulator is the minuend and the operand the subtrahend, wrapping, length 2. -/
def execSub (v : Byte) (s : State) : Host.Outcome State Fault Refusal :=
  .next ((s.setAcc (subBytes s.acc v)).retire 2)

end Sys2Proof.Machine
end

