-- ==== Sys2Proof/Machine/Dispatch.lean ====
section
/-! DEFINITION. Step 4 of the loop and what follows it: one arm per instruction (40_fetch_decode_execute.md R69, R70). -/

namespace Sys2Proof.Machine

def exec (i : Instr) (s : State) : Host.Outcome State Fault Refusal :=
  match i with
  | .nop v => Sys2Proof.Machine.execNop v s
  | .mov v => Sys2Proof.Machine.execMov v s
  | .add v => Sys2Proof.Machine.execAdd v s
  | .sub v => Sys2Proof.Machine.execSub v s
  | .end_ => Sys2Proof.Machine.execEnd s
  | .unknown b => Sys2Proof.Machine.execUnknown b s

end Sys2Proof.Machine
end

