-- ==== Sys2Proof/Machine/Operands.lean ====
section
/-! DEFINITION. The two fetches of a step. The hardware's one operand form is the byte after the opcode
(30_encoding.md R53); there are no addressing modes (42_control_ops.md R93). -/

namespace Sys2Proof.Machine

/-- R66, step 1: the byte at `pc`. -/
def fetchOpcode (s : State) : ReadResult := s.memRead s.pc

/-- R53, R68, step 3: the byte at `pc + 1`, taken whole. -/
def fetchOperand (s : State) : ReadResult := s.memRead (s.pc + 1)

end Sys2Proof.Machine
end

