-- ==== Sys2Proof/Machine/Loop.lean ====
section
/-! DEFINITION. The step of the fetch-execute loop (40_fetch_decode_execute.md R65), and where a word of the opcode
table is placed so that the next step fetches it. Machine/Step.lean gives these their fixed names. -/

namespace Sys2Proof.Machine

/-- R65: one step. A halted machine is left as it is (R75, D16). The order of the tests is R105's: opcode fetch out of
range, END, operand fetch out of range, dispatch. The operand is fetched for every opcode byte but END (R68, C2). -/
def stepLoop (s : State) : Host.Outcome State Fault Refusal :=
  match s.running with
  | false => .next s
  | true =>
    match fetchOpcode s with
    | .fail _ => .next s.halt
    | .unloaded => .refused .unloadedMemory
    | .ok op =>
      if decodeOpcode op = .end_ then exec .end_ (s.setIr op)
      else
        match fetchOperand s with
        | .fail _ => .next (s.setIr op).halt
        | .unloaded => .refused .unloadedMemory
        | .ok v => exec ((decodeOpcode op).withOperand v) ((s.setIr op).setOpr v)

/-- Writes bytes into the cells from index `a` on; a byte whose index is not below N goes nowhere (R34). -/
def writeBytes (n : Nat) (m : Memory) (a : Nat) : List Byte → Memory
  | [] => m
  | b :: bs => writeBytes n (Memory.write n m a b).mem (a + 1) bs

/-- A word of the opcode table stored at the cursor of a running machine: the cells at `pc` and `pc + 1` hold its two
bytes. It stands for the Loader's load (R123; log 1). -/
def placeWord (s : State) (nbits w : Nat) : State :=
  { s with mem := writeBytes s.config.memorySize s.mem s.pc (wordBytes nbits w), running := true }

end Sys2Proof.Machine
end

