-- ==== Sys2Proof/Machine/Step.lean ====
section
/-! DEFINITION. The step of the machine under the fixed names; the definitions stand in Machine/Loop.lean. -/

namespace Sys2Proof.Machine

/-- R65: `Step()`. -/
def step (s : State) : Host.Outcome State Fault Refusal := stepLoop s

/-- `s` with a word of the opcode table stored where `step` fetches its next instruction. -/
def State.withFetchWord (s : State) (nbits w : Nat) : State := placeWord s nbits w

end Sys2Proof.Machine
end

