-- ==== Sys2Proof/Machine/Launch.lean ====
section
/-! DEFINITION. What the host does before a run: load Memory (20_memory.md R32, 10_state.md R26), reset the CPU
(70_reset_and_hazards.md R120 to R122), and both together, a launch (R123, R124). None of these happens during a run
(R125, D12; log 12). -/

namespace Sys2Proof.Machine

/-- R26, R32: the Loader's load into the machine's Memory; "The CPU takes no part in the load." -/
def State.hostLoad (s : State) (bytes : List Byte) : State × Option Condition :=
  ({ s with mem := (Memory.load s.config.memorySize s.mem bytes).mem },
    (Memory.load s.config.memorySize s.mem bytes).failure)

/-- R120, R122: the reset input puts every element of the CPU at its value of R21 and touches neither Memory nor the
parameters. The new run's diagnostic output starts empty (D17; log 13). -/
def State.cpuReset (s : State) : State :=
  { State.reset with config := s.config, mem := s.mem }

/-- R124: the reset state with a loaded image of exactly N bytes; R102, D11: otherwise there is no run. R6 gives N at least
1; the statements about launches assume it. -/
def launch (c : Config) (image : List Byte) : Host.Outcome State Fault Refusal :=
  match (Memory.load c.memorySize [] image).failure with
  | none => .next { State.reset with config := c, mem := (Memory.load c.memorySize [] image).mem }
  | some _ => .refused .malformedLoad

end Sys2Proof.Machine
end

