-- ==== Sys2Proof/Machine/Observe.lean ====
section
/-! DEFINITION. What can be told of a state from outside and what the rules name without keeping it in a register: the
Reporter's view (10_state.md R22), the halt paths (40_fetch_decode_execute.md R77), the condition a step meets
(60_exceptions.md R104, R105). The step reads none of these. -/

namespace Sys2Proof.Machine

/-- R22: the four values exposed to the Reporter; the cursor is not among them. -/
structure Report where
  cycleCount : Nat
  ir : Byte
  opr : Byte
  acc : Byte
deriving DecidableEq, Repr

/-- R22, R126: the Reporter may read once `running = false`, "and not before". -/
def State.report (s : State) : Option Report :=
  match s.running with
  | true => none
  | false => some { cycleCount := s.cycleCount, ir := s.ir, opr := s.opr, acc := s.acc }

/-- R77: the three ways a run from reset ends. Names for claims; no register records them (D7). -/
inductive HaltPath where
  | haltEnd
  | haltOperand
  | haltPastEnd
deriving DecidableEq, Repr

/-- R77: the table's row for a halt path, read off a halted state and its Memory. -/
def HaltPath.holds : HaltPath → State → Prop
  | .haltEnd, s => s.pc < s.config.memorySize ∧ s.ir = 0x87 ∧ s.memRead s.pc = .ok 0x87
  | .haltOperand, s => s.pc + 1 = s.config.memorySize ∧ s.memRead s.pc = .ok s.ir ∧ s.ir ≠ 0x87
  | .haltPastEnd, s => s.pc = s.config.memorySize ∧ 2 ≤ s.pc ∧ s.memRead (s.pc - 2) = .ok s.ir ∧ s.ir.toNat ≤ 3

/-- R77, D7: the halt path as a function of the final state. -/
def State.haltPath (s : State) : Option HaltPath :=
  match s.running with
  | true => none
  | false =>
    if s.ir = 0x87 then some .haltEnd
    else if s.pc < s.config.memorySize then some .haltOperand
    else some .haltPastEnd

/-- R104, R105: the condition, at most one, that the step from this state meets. -/
def State.stepCondition (s : State) : Option Condition :=
  match s.running with
  | false => none
  | true =>
    match fetchOpcode s with
    | .fail c => some c
    | .unloaded => none
    | .ok op =>
      if decodeOpcode op = .end_ then none
      else
        match fetchOperand s with
        | .fail c => some c
        | .unloaded => none
        | .ok _ => if decodeOpcode op = .unknown op then some .unknownOpcode else none

end Sys2Proof.Machine
end

