-- ==== Sys2Proof/Safety.lean ====
section
/-! DEFINITION. What the claims are stated in: the invariant of a run (10_state.md R20), a loaded Memory (20_memory.md
R35, R36), two byte readings at the cursor, and the projections that forget what a rule does not read. -/

namespace Sys2Proof.Machine

/-- R36, R123: every cell below N holds a value. -/
abbrev State.loaded (s : State) : Prop :=
  ∀ a < s.config.memorySize, (Memory.find s.mem a).isSome = true

/-- R20, items (c), (d), (e), with Memory's canonical form. Items (a), (b) are about two states and (f) is the type of
the registers. -/
structure State.Inv (s : State) : Prop where
  memWf : Memory.wf s.config.memorySize s.mem
  pcBounded : s.pc ≤ s.config.memorySize
  runningInside : s.running = true → s.pc < s.config.memorySize
  countBehindPc : s.cycleCount ≤ s.pc
  countBelowSize : s.cycleCount + 1 ≤ s.config.memorySize

/-- R77: a halted state is explained by the halt path that its final values name. -/
def State.HaltExplained (s : State) : Prop :=
  s.running = false → ∃ p, s.haltPath = some p ∧ p.holds s

/-- The machine runs and both fetches of the step succeed, with opcode byte `op` and operand byte `v`. -/
def State.Fetches (s : State) (op v : Byte) : Prop :=
  s.running = true ∧ s.memRead s.pc = .ok op ∧ s.memRead (s.pc + 1) = .ok v

/-- The next state of an outcome, where it has one. -/
def nextState : Host.Outcome State Fault Refusal → Option State
  | .next s => some s
  | .fault _ => none
  | .refused _ => none

/-- A state with the diagnostic output and the parameter `DIAG` replaced; the six elements of R19, Memory and N stay. -/
def State.withDiagnostics (s : State) (enabled : Bool) (d : List DiagEvent) : State :=
  { s with config := { s.config with diagEnabled := enabled }, diag := d }

/-- A state with the cells of Memory replaced. -/
def State.withMem (s : State) (m : Memory) : State := { s with mem := m }

/-- An outcome with a function applied to its next state. -/
def mapNext (f : State → State) : Host.Outcome State Fault Refusal → Host.Outcome State Fault Refusal
  | .next s => .next (f s)
  | .fault r => .fault r
  | .refused r => .refused r

/-- `k` steps of the machine, stopping at the first fault or refusal. -/
def runSteps : Nat → State → Host.Outcome State Fault Refusal
  | 0, s => .next s
  | k + 1, s =>
    match step s with
    | .next t => runSteps k t
    | .fault r => .fault r
    | .refused r => .refused r

end Sys2Proof.Machine
end

