-- ==== Sys2Proof/Certificates/Slice0/Obligations.lean ====
section
/-! DEFINITION. The statements about the machine, from the rules of spec/. Where a docstring says DERIVED, the statement
rests on an inference or a decision of the spec (D<n> of 92_eei_decisions.md) or on a choice of the model, named there. -/

open Sys2Proof Sys2Proof.Machine

/-! ### Encoding -/

/-- R55: the decoder's table, and every other byte. -/
def Obligations.DecodeOpcodeMatchesTable : Prop :=
  decodeOpcode 0x00 = .nop ∧ decodeOpcode 0x01 = .mov ∧ decodeOpcode 0x02 = .add ∧ decodeOpcode 0x03 = .sub ∧
  decodeOpcode 0x87 = .end_ ∧
  ∀ b : Byte, b ≠ 0x00 → b ≠ 0x01 → b ≠ 0x02 → b ≠ 0x03 → b ≠ 0x87 → decodeOpcode b = .unknown b

/-- DERIVED, from the formats of 30_encoding.md R51, R52 and the table of R54: some instructions' bytes, written out
bit by bit from the spec, and the bytes that follow them. -/
def Obligations.WrittenOutBytesDecode : Prop :=
  decode [0b00000000, 0b10000111] = .ok (.nop 0x87, []) ∧
  decode [0b00000001, 0b00101010, 0b10000111] = .ok (.mov 0x2A, [0x87]) ∧
  decode [0b00000010, 0b11111111] = .ok (.add 0xFF, []) ∧
  decode [0b00000011, 0b00000001] = .ok (.sub 0x01, []) ∧
  decode [0b10000111, 0b00000001] = .ok (.end_, [0x01]) ∧
  decode [0b10011001, 0b00000001, 0b00000111] = .ok (.unknown 0x99, [0x01, 0x07])

/-- DERIVED, from R50 to R57: no bit of an encoding is dropped; the bytes of every well-formed instruction, whatever
follows them, decode to it and leave what follows. -/
def Obligations.DecodeOfEncode : Prop :=
  ∀ i : Instr, i.wellFormed = true → ∀ rest : List Byte, decode (encode i ++ rest) = .ok (i, rest)

/-- DERIVED, from R50 to R58: each byte stream has one meaning; what decodes is the encoding of a well-formed
instruction followed by the rest. -/
def Obligations.EncodeOfDecode : Prop :=
  ∀ (bs rest : List Byte) (i : Instr), decode bs = .ok (i, rest) →
    i.wellFormed = true ∧ bs = encode i ++ rest

/-- DERIVED, from R50, R51 and R56 (no illegal instruction): bytes are rejected exactly when they end before the
instruction does. -/
def Obligations.DecodeRejectsOnlyTruncatedBytes : Prop :=
  ∀ (bs : List Byte) (e : DecodeError), decode bs = .error e ↔
    (bs = [] ∧ e = .noOpcode) ∨ (∃ op : Byte, bs = [op] ∧ op.toNat ≤ 3 ∧ e = .noOperand)

/-- DERIVED, from R51, R52 and the model's own placing of a word (log 17): a word of the opcode table placed at the
cursor is what the next step runs, in a state with the same accumulator, cursor, count and diagnostics. -/
def Obligations.PlacedWordIsTheNextInstruction : Prop :=
  ∀ (s : State) (nbits w : Nat) (i : Instr), s.pc + 1 < s.config.memorySize → decodeTableWord nbits w = some i →
    ∃ u : State, step (s.withFetchWord nbits w) = exec i u ∧ u.acc = s.acc ∧ u.pc = s.pc ∧
      u.cycleCount = s.cycleCount ∧ u.config = s.config ∧ u.diag = s.diag ∧ u.running = true

/-! ### Each instruction: what `exec` does, that is from the dispatch on (log 16): completion and frame -/

/-- DERIVED, from R69 to R73: NOP, MOV, ADD and SUB answer a next state from every state. The operand is `v`; the
count goes up by 1, the cursor by 2, and the machine halts if the cursor has reached N; everything else stays. -/
def Obligations.DataInstructionsExecute : Prop :=
  ∀ (s : State) (v : Byte),
    exec (.nop v) s = .next { s with
      cycleCount := s.cycleCount + 1, pc := s.pc + 2,
      running := s.running && decide (s.pc + 2 < s.config.memorySize) } ∧
    exec (.mov v) s = .next { s with
      acc := v, cycleCount := s.cycleCount + 1, pc := s.pc + 2,
      running := s.running && decide (s.pc + 2 < s.config.memorySize) } ∧
    exec (.add v) s = .next { s with
      acc := BitVec.ofNat 8 ((s.acc.toNat + v.toNat) % 256), cycleCount := s.cycleCount + 1, pc := s.pc + 2,
      running := s.running && decide (s.pc + 2 < s.config.memorySize) } ∧
    exec (.sub v) s = .next { s with
      acc := BitVec.ofInt 8 (((s.acc.toNat : Int) - (v.toNat : Int)) % 256),
      cycleCount := s.cycleCount + 1, pc := s.pc + 2,
      running := s.running && decide (s.pc + 2 < s.config.memorySize) }

/-- DERIVED, from R67 and R90 (the cursor after END is D6): END answers a next state from every state, in which only
`running` has changed. -/
def Obligations.EndExecutes : Prop :=
  ∀ s : State, exec .end_ s = .next { s with running := false }

/-- DERIVED, from R91 and R70 to R73 (the diagnostic's payload is D8): UNKNOWN answers a next state from every state.
The count and the cursor go up by 1; the diagnostic is emitted when DIAG is true; everything else stays. -/
def Obligations.UnknownExecutes : Prop :=
  ∀ (s : State) (b : Byte),
    exec (.unknown b) s = .next { s with
      cycleCount := s.cycleCount + 1, pc := s.pc + 1,
      running := s.running && decide (s.pc + 1 < s.config.memorySize),
      diag := s.diag ++ (bif s.config.diagEnabled then [{ pc := s.pc, op := b }] else []) }

/-- DERIVED, from R69, R27 and R35, for every instruction, from its dispatch on (log 16): what it leaves unchanged.
That END leaves the cursor is D6 (log 6); that Memory is constant is D12 (log 12). None of them writes `ir`, `opr`,
Memory or a parameter; the accumulator changes only under MOV, ADD and SUB; the diagnostic output only under UNKNOWN;
END changes neither the cursor nor the count; none sets `running`. -/
def Obligations.InstructionFrame : Prop :=
  ∀ (i : Instr) (s t : State), exec i s = .next t →
    t.config = s.config ∧ t.ir = s.ir ∧ t.opr = s.opr ∧ (∀ a : Nat, t.memRead a = s.memRead a) ∧
    ((∀ v, i ≠ .mov v) → (∀ v, i ≠ .add v) → (∀ v, i ≠ .sub v) → t.acc = s.acc) ∧
    ((∀ b, i ≠ .unknown b) → t.diag = s.diag) ∧
    (i = .end_ → t.pc = s.pc ∧ t.cycleCount = s.cycleCount) ∧
    (s.running = false → t.running = false)

/-! ### Each instruction: the full step -/

/-- DERIVED, from R65 to R69. The writes of `ir`, and of `opr` for unknown bytes too, are D4 and D5 (log 4, 5); that
`exec` is the part from the dispatch on is the model's cut (log 16). When the bytes at the cursor of a running machine
decode to `i`, the step writes the opcode byte to `ir`, for every instruction but END writes the byte after it to
`opr`, and is `exec` of `i` there. For END the byte after it is not read. -/
def Obligations.StepRunsDecodedInstruction : Prop :=
  (∀ (s : State) (op v : Byte) (i : Instr) (rest : List Byte), s.running = true →
    s.memRead s.pc = .ok op → s.memRead (s.pc + 1) = .ok v → decode [op, v] = .ok (i, rest) → i ≠ .end_ →
    step s = exec i { s with ir := op, opr := v }) ∧
  (∀ (s : State) (op : Byte) (rest : List Byte), s.running = true →
    s.memRead s.pc = .ok op → decode [op] = .ok (.end_, rest) →
    step s = exec .end_ { s with ir := op })

/-- DERIVED, NOP: the full step is R85's. When the operand cannot be read, R85 has the step halt before the dispatch;
that it has written `ir` and kept `opr` and the cursor is R68's decision (D4, D5, D6; log 4, 5, 6). Two zero bytes are
NOP 0x00 (R85). -/
def Obligations.NopFullStep : Prop :=
  ∀ s : State, s.running = true → s.memRead s.pc = .ok 0x00 →
    (∀ v : Byte, s.memRead (s.pc + 1) = .ok v →
      step s = .next { s with
        ir := 0x00, opr := v, cycleCount := s.cycleCount + 1, pc := s.pc + 2,
        running := decide (s.pc + 2 < s.config.memorySize) }) ∧
    (s.memRead (s.pc + 1) = .fail .outOfRange → step s = .next { s with ir := 0x00, running := false }) ∧
    (∀ k : Nat, decode (List.replicate (2 * k + 2) 0x00) = .ok (.nop 0x00, List.replicate (2 * k) 0x00))

/-- DERIVED, MOV: the full step, whatever the accumulator held, is R86's. When the operand cannot be read, R86 has the
step halt before the dispatch with `acc` unchanged; that it has written `ir` and kept `opr` and the cursor is R68's
decision (D4, D5, D6; log 4, 5, 6). -/
def Obligations.MovFullStep : Prop :=
  ∀ s : State, s.running = true → s.memRead s.pc = .ok 0x01 →
    (∀ v : Byte, s.memRead (s.pc + 1) = .ok v →
      step s = .next { s with
        ir := 0x01, opr := v, acc := v, cycleCount := s.cycleCount + 1, pc := s.pc + 2,
        running := decide (s.pc + 2 < s.config.memorySize) }) ∧
    (s.memRead (s.pc + 1) = .fail .outOfRange → step s = .next { s with ir := 0x01, running := false })

/-- DERIVED, ADD: the full step, modulo 256, is R87's, and adding `v` is subtracting `(256 - v) mod 256`. When the
operand cannot be read, R87 has the step halt before the dispatch; that it has written `ir` and kept `opr` and the
cursor is R68's decision (D4, D5, D6; log 4, 5, 6). -/
def Obligations.AddFullStep : Prop :=
  ∀ s : State, s.running = true → s.memRead s.pc = .ok 0x02 →
    (∀ v : Byte, s.memRead (s.pc + 1) = .ok v →
      step s = .next { s with
        ir := 0x02, opr := v, acc := BitVec.ofNat 8 ((s.acc.toNat + v.toNat) % 256),
        cycleCount := s.cycleCount + 1, pc := s.pc + 2,
        running := decide (s.pc + 2 < s.config.memorySize) } ∧
      addBytes s.acc v = subBytes s.acc (BitVec.ofNat 8 ((256 - v.toNat) % 256))) ∧
    (s.memRead (s.pc + 1) = .fail .outOfRange → step s = .next { s with ir := 0x02, running := false })

/-- DERIVED, SUB: the full step, the accumulator minus the operand, modulo 256 with the result in 0..255, is R88's.
When the operand cannot be read, R88 has the step halt before the dispatch; that it has written `ir` and kept `opr`
and the cursor is R68's decision (D4, D5, D6; log 4, 5, 6). -/
def Obligations.SubFullStep : Prop :=
  ∀ s : State, s.running = true → s.memRead s.pc = .ok 0x03 →
    (∀ v : Byte, s.memRead (s.pc + 1) = .ok v →
      step s = .next { s with
        ir := 0x03, opr := v, acc := BitVec.ofInt 8 (((s.acc.toNat : Int) - (v.toNat : Int)) % 256),
        cycleCount := s.cycleCount + 1, pc := s.pc + 2,
        running := decide (s.pc + 2 < s.config.memorySize) }) ∧
    (s.memRead (s.pc + 1) = .fail .outOfRange → step s = .next { s with ir := 0x03, running := false })

/-- DERIVED, from R90 and R67 (D4: `ir` holds 0x87; D6: the cursor stays; log 4, 6): the full step of END, whatever
the byte after it is, readable or not. -/
def Obligations.EndFullStep : Prop :=
  ∀ s : State, s.running = true → s.memRead s.pc = .ok 0x87 →
    step s = .next { s with ir := 0x87, running := false }

/-- DERIVED, from R91 and R68 (D4: `ir` holds the byte; D5: the byte after it goes to `opr`; D6: the cursor stays at a
halt; D8: the diagnostic; log 4, 5, 6, 8): the full step of an unknown byte; in the last cell it halts, neither
counted nor diagnosed. -/
def Obligations.UnknownFullStep : Prop :=
  ∀ (s : State) (b : Byte), (Instr.unknown b).wellFormed = true → s.running = true → s.memRead s.pc = .ok b →
    (∀ v : Byte, s.memRead (s.pc + 1) = .ok v →
      step s = .next { s with
        ir := b, opr := v, cycleCount := s.cycleCount + 1, pc := s.pc + 1,
        diag := s.diag ++ (bif s.config.diagEnabled then [{ pc := s.pc, op := b }] else []) }) ∧
    (s.memRead (s.pc + 1) = .fail .outOfRange → step s = .next { s with ir := b, running := false })

/-- DERIVED, from R91 and R45 (`opr` is D5; that the next step, on END, writes `ir` and keeps the cursor is D4 and D6;
log 4, 5, 6): after an unknown byte the machine still runs, and the next opcode is the very byte just read into `opr`;
if that is 0x87, the next step halts on END. -/
def Obligations.ByteAfterUnknownIsRefetched : Prop :=
  ∀ (s t : State) (b v : Byte), (Instr.unknown b).wellFormed = true → s.Fetches b v → step s = .next t →
    t.running = true ∧ t.opr = v ∧ t.memRead t.pc = .ok v ∧
    (v = 0x87 → step t = .next { t with ir := 0x87, running := false })

/-! ### Arithmetic -/

/-- R89: both operations modulo 256, with the laws the rule gives; and, on natural numbers, no arithmetic on the count
beyond `+ 1` and none on the cursor beyond `+ 1` and `+ 2`. -/
def Obligations.ArithmeticWrapsModulo256 : Prop :=
  (∀ a v : Byte,
    (addBytes a v).toNat = (a.toNat + v.toNat) % 256 ∧
    ((subBytes a v).toNat : Int) = ((a.toNat : Int) - (v.toNat : Int)) % 256 ∧
    subBytes (addBytes a v) v = a ∧ addBytes a 0 = a ∧ subBytes a a = 0 ∧
    addBytes a v = subBytes a (BitVec.ofNat 8 ((256 - v.toNat) % 256))) ∧
  (∀ s t : State, step s = .next t →
    (t.cycleCount = s.cycleCount ∨ t.cycleCount = s.cycleCount + 1) ∧
    (t.pc = s.pc ∨ t.pc = s.pc + 1 ∨ t.pc = s.pc + 2))

/-! ### Memory -/

/-- R33: a read answers the cell's byte below N and OutOfRange from N up, and the loop turns the failure of either of
its reads into a halt. -/
def Obligations.ReadOneByte : Prop :=
  (∀ (n : Nat) (m : Memory) (a : Nat), n ≤ a → Memory.read n m a = .fail .outOfRange) ∧
  (∀ (n : Nat) (m : Memory) (a : Nat) (b : Byte), a < n → Memory.find m a = some b → Memory.read n m a = .ok b) ∧
  (∀ s : State, s.running = true → s.memRead s.pc = .fail .outOfRange →
    ∃ t, step s = .next t ∧ t.running = false) ∧
  (∀ (s : State) (op : Byte), s.running = true → s.memRead s.pc = .ok op → op ≠ 0x87 →
    s.memRead (s.pc + 1) = .fail .outOfRange → ∃ t, step s = .next t ∧ t.running = false)

/-- R34: a write below N is what a read of that cell then answers, and leaves every other read as it was; from N up it
fails and no cell changes; and no step of the machine writes Memory. -/
def Obligations.WriteOneByte : Prop :=
  (∀ (n : Nat) (m : Memory) (a : Nat) (v : Byte), a < n →
    (Memory.write n m a v).failure = none ∧
    Memory.read n (Memory.write n m a v).mem a = .ok v ∧
    ∀ a' : Nat, a' ≠ a → Memory.read n (Memory.write n m a v).mem a' = Memory.read n m a') ∧
  (∀ (n : Nat) (m : Memory) (a : Nat) (v : Byte), n ≤ a →
    Memory.write n m a v = { mem := m, failure := some .outOfRange }) ∧
  (∀ s t : State, step s = .next t → t.mem = s.mem)

/-- DERIVED, from R32 and R102 (D11; log 11): a load of exactly N bytes makes every cell read as its byte and touches
nothing but Memory; a load of any other length fails with MalformedLoad and changes nothing. -/
def Obligations.LoadExactlyNBytes : Prop :=
  (∀ (s : State) (bytes : List Byte), bytes.length = s.config.memorySize →
    (s.hostLoad bytes).2 = none ∧
    (s.hostLoad bytes).1 = s.withMem (s.hostLoad bytes).1.mem ∧
    ∀ (a : Nat) (b : Byte), bytes[a]? = some b → (s.hostLoad bytes).1.memRead a = .ok b) ∧
  (∀ (s : State) (bytes : List Byte), bytes.length ≠ s.config.memorySize →
    s.hostLoad bytes = (s, some .malformedLoad))

/-- DERIVED, from R35 (D12; log 12): Memory and the parameters are constants of a run; after any number of steps every
cell reads as before. -/
def Obligations.RunsKeepMemoryAndParameters : Prop :=
  ∀ (k : Nat) (s t : State), runSteps k s = .next t →
    t.config = s.config ∧ t.mem = s.mem ∧ ∀ a : Nat, t.memRead a = s.memRead a

/-- DERIVED, from R24 and R31: a step depends on Memory only through the cell at the cursor and, unless that holds
0x87, the cell after it. -/
def Obligations.StepReadsOnlyFetchedCells : Prop :=
  ∀ (s : State) (m : Memory),
    Memory.read s.config.memorySize m s.pc = s.memRead s.pc →
    (s.memRead s.pc ≠ .ok 0x87 → Memory.read s.config.memorySize m (s.pc + 1) = s.memRead (s.pc + 1)) →
    step (s.withMem m) = mapNext (fun t => t.withMem m) (step s)

/-! ### The loop -/

/-- R72: every step that dispatches advances the cursor by 2 for NOP, MOV, ADD, SUB and by 1 for an unknown byte, and
no other step writes the cursor. -/
def Obligations.CursorAdvancesByLength : Prop :=
  ∀ s t : State, step s = .next t →
    (∀ op v : Byte, s.Fetches op v → op ≠ 0x87 → t.pc = s.pc + (if op.toNat ≤ 3 then 2 else 1)) ∧
    ((∀ op v : Byte, s.Fetches op v → op = 0x87) → t.pc = s.pc)

/-- DERIVED, from R74, R71 and C1: a step is counted exactly when it runs, its opcode is not END and both fetches
succeed; any other step leaves the count. -/
def Obligations.CountsExecutedAndSkipped : Prop :=
  ∀ s t : State, step s = .next t →
    (t.cycleCount = s.cycleCount + 1 ↔ ∃ op v : Byte, s.Fetches op v ∧ op ≠ 0x87) ∧
    (t.cycleCount = s.cycleCount ∨ t.cycleCount = s.cycleCount + 1)

/-- DERIVED, from R73: a dispatching step of a running machine halts in that same step exactly when the new cursor is
N or more. -/
def Obligations.HaltsWhenCursorReachesEnd : Prop :=
  ∀ (s t : State) (op v : Byte), s.Fetches op v → op ≠ 0x87 → step s = .next t →
    (t.running = false ↔ s.config.memorySize ≤ t.pc)

/-- DERIVED, from R107 and R80 (D4, D5, D6; log 4, 5, 6): a running step that is not counted halts, and has written
`ir`, with the byte at the cursor, and nothing else; where the cursor is past the end it has not written that either.
-/
def Obligations.HaltingStepTouchesOnlyIr : Prop :=
  ∀ s t : State, s.running = true → step s = .next t → t.cycleCount = s.cycleCount →
    t = { s with ir := t.ir, running := false } ∧
    (s.pc < s.config.memorySize → s.memRead s.pc = .ok t.ir) ∧
    (s.config.memorySize ≤ s.pc → t.ir = s.ir)

/-- DERIVED, from R10 and R27: a step that changes the accumulator ran MOV, ADD or SUB, and the new value is theirs.
-/
def Obligations.AccumulatorChangesOnlyByMovAddSub : Prop :=
  ∀ s t : State, step s = .next t → t.acc ≠ s.acc →
    ∃ v : Byte, (s.Fetches 0x01 v ∧ t.acc = v) ∨
      (s.Fetches 0x02 v ∧ t.acc.toNat = (s.acc.toNat + v.toNat) % 256) ∨
      (s.Fetches 0x03 v ∧ (t.acc.toNat : Int) = ((s.acc.toNat : Int) - (v.toNat : Int)) % 256)

/-- DERIVED, from R20 (a), (b), (c), (e), R15 and R16, over any number of steps: the count and the cursor never go
down, the count rises no more than the cursor, and a halted machine's run answers that same state (R75's decision D16,
log 9). -/
def Obligations.RunsAreMonotone : Prop :=
  ∀ (k : Nat) (s t : State), runSteps k s = .next t →
    s.cycleCount ≤ t.cycleCount ∧ s.pc ≤ t.pc ∧ t.cycleCount - s.cycleCount ≤ t.pc - s.pc ∧
    (s.running = false → t = s)

/-- DERIVED, from R104 and R105 (priority) with R101 and R103. That `ir` holds the byte fetched is D4 (log 4); that
the cursor stays at a halt is D6 (log 6); that an unknown byte in the last cell meets OutOfRange, uncounted and
undiagnosed, is D5 and D8 (log 5, 8). The condition a step meets is decided in R105's order, and decides what the step
does. OutOfRange halts and is not counted; UnknownOpcode is counted, advances by 1 and does not halt; a running step
that meets none is END or one of the four; MalformedLoad is never met. -/
def Obligations.ConditionsDecideTheStep : Prop :=
  ∀ s t : State, step s = .next t →
    (s.stepCondition = some .outOfRange →
      t.running = false ∧ t.cycleCount = s.cycleCount ∧ t.acc = s.acc ∧ t.pc = s.pc ∧ t.diag = s.diag) ∧
    (s.stepCondition = some .unknownOpcode →
      t.running = true ∧ t.cycleCount = s.cycleCount + 1 ∧ t.acc = s.acc ∧ t.pc = s.pc + 1) ∧
    (s.stepCondition = none → s.running = true → t.ir ∈ [0x00, 0x01, 0x02, 0x03, 0x87]) ∧
    s.stepCondition ≠ some .malformedLoad

/-- DERIVED, from R116 and R36 (the refusal is the model's, log 1): no step faults, and a step is refused exactly when
the machine runs and must read a cell below N that holds no value. -/
def Obligations.StepStopsOnlyOnUnloadedMemory : Prop :=
  ∀ s : State,
    (∀ f : Fault, step s ≠ .fault f) ∧
    (∀ r : Refusal, step s = .refused r ↔
      r = .unloadedMemory ∧ s.running = true ∧
      (s.memRead s.pc = .unloaded ∨
        ∃ op : Byte, s.memRead s.pc = .ok op ∧ op ≠ 0x87 ∧ s.memRead (s.pc + 1) = .unloaded))

/-! ### Diagnostics and observation -/

/-- DERIVED, from R23 and R91 (D8; log 8): a step appends one event, with the cursor and the byte, exactly when it
dispatches an unknown byte and DIAG is true. -/
def Obligations.OneDiagnosticPerUnknownStep : Prop :=
  ∀ s t : State, step s = .next t →
    (∀ op v : Byte, s.Fetches op v → decodeOpcode op = .unknown op → s.config.diagEnabled = true →
      t.diag = s.diag ++ [{ pc := s.pc, op := op }]) ∧
    (s.config.diagEnabled = false → t.diag = s.diag) ∧
    ((∀ op v : Byte, s.Fetches op v → decodeOpcode op ≠ .unknown op) → t.diag = s.diag)

/-- DERIVED, from R23 ("No rule reads the diagnostic output") and R19: a run with another value of DIAG and another
diagnostic output so far makes the same steps; its states differ in these two only. -/
def Obligations.RunIgnoresDiagnostics : Prop :=
  ∀ (k : Nat) (s : State) (e : Bool) (d : List DiagEvent), ∃ d' : List DiagEvent,
    runSteps k (s.withDiagnostics e d) = mapNext (fun t => t.withDiagnostics e d') (runSteps k s)

/-- DERIVED, from R22 and R126: the Reporter reads the four values once the machine has halted, and nothing before. -/
def Obligations.ReportOnlyWhenHalted : Prop :=
  ∀ s : State,
    (s.running = true → s.report = none) ∧
    (s.running = false →
      s.report = some { cycleCount := s.cycleCount, ir := s.ir, opr := s.opr, acc := s.acc })

/-! ### Reset and launch -/

/-- DERIVED, from R21 and R6 (`pc = 0` is D1, log 2; N = 32 and DIAG true are the parameters' values, log 8, 10; the
empty diagnostic output and the cells without a value are the model's, log 1, 8): the state after reset. -/
def Obligations.ResetState : Prop :=
  State.reset.acc = 0x00 ∧ State.reset.ir = 0x00 ∧ State.reset.opr = 0x00 ∧ State.reset.running = true ∧
  State.reset.cycleCount = 0 ∧ State.reset.pc = 0 ∧ State.reset.config.memorySize = 32 ∧
  State.reset.config.diagEnabled = true ∧ State.reset.diag = [] ∧
  ∀ a : Nat, a < 32 → State.reset.memRead a = .unloaded

/-- DERIVED, from R120 and R122 (D17; log 13; `pc = 0` is D1, log 2): the reset input gives every element of the CPU
its reset value, whatever it held, and leaves Memory and the parameters; the new run's diagnostic output is empty, the
model's choice (log 13). -/
def Obligations.CpuResetKeepsMemory : Prop :=
  ∀ s : State,
    s.cpuReset.acc = 0x00 ∧ s.cpuReset.ir = 0x00 ∧ s.cpuReset.opr = 0x00 ∧ s.cpuReset.running = true ∧
    s.cpuReset.cycleCount = 0 ∧ s.cpuReset.pc = 0 ∧ s.cpuReset.diag = [] ∧ s.cpuReset.config = s.config ∧
    ∀ a : Nat, s.cpuReset.memRead a = s.memRead a

/-- DERIVED, from R102 and R124 (D11; log 11): a launch whose image is not exactly N bytes is refused. -/
def Obligations.MalformedLaunchIsRefused : Prop :=
  ∀ (c : Config) (image : List Byte), image.length ≠ c.memorySize → launch c image = .refused .malformedLoad

/-- DERIVED, from R20 and R21 (`pc = 0` is D1, log 2; Memory lists nothing, log 1): the invariant, and the explanation
of a halt, hold after reset. -/
def Obligations.ResetMeetsInvariant : Prop :=
  State.reset.Inv ∧ State.reset.HaltExplained

/-- DERIVED, from R121, R123 and R124: a launch of exactly N bytes, N at least 1, gives R21's reset state (`pc = 0` is
D1, log 2) with the parameters asked for, no diagnostics (log 8) and the image in Memory: every cell is loaded, and
the invariant holds. -/
def Obligations.LaunchMeetsInvariant : Prop :=
  ∀ (c : Config) (image : List Byte), 1 ≤ c.memorySize → image.length = c.memorySize →
    ∃ s : State, launch c image = .next s ∧ s.Inv ∧ s.loaded ∧ s.config = c ∧
      s.acc = 0x00 ∧ s.ir = 0x00 ∧ s.opr = 0x00 ∧ s.pc = 0 ∧ s.running = true ∧ s.cycleCount = 0 ∧ s.diag = [] ∧
      ∀ (a : Nat) (b : Byte), image[a]? = some b → s.memRead a = .ok b

/-! ### Whole-machine statements -/

/-- DERIVED, from R20 (c), (d), (e), R14, R16 and R79: every step keeps the invariant: Memory's canonical form, the
cursor within 0..N and below N while running, the count at most the cursor and at most N - 1. -/
def Obligations.StepKeepsInvariant : Prop :=
  ∀ s t : State, s.Inv → step s = .next t → t.Inv

/-- DERIVED, from R77 and R78 (D4, D5, D6, D7; log 4, 5, 6, 7): every step keeps each halted state explained by the
one halt path its final values name: END at the cursor with `ir = 0x87`; the last cell with another opcode in it; or
the cursor at N with one of the four 2-byte opcodes two cells before. -/
def Obligations.StepKeepsHaltExplained : Prop :=
  ∀ s t : State, s.Inv → s.HaltExplained → step s = .next t → t.HaltExplained

/-- DERIVED, from R76 and R116: from every state that meets the invariant with every cell loaded, the machine halts
within `N - pc` steps, without a fault or a refusal. -/
def Obligations.EveryLoadedRunHalts : Prop :=
  ∀ s : State, s.Inv → s.loaded →
    ∃ t : State, runSteps (s.config.memorySize - s.pc) s = .next t ∧ t.running = false ∧ t.Inv

/-- DERIVED, from R76, R77, R79, R116, R124 and R126. The halt path its final values name rests on D4, D5, D6 and D7
(log 4, 5, 6, 7). A launch of exactly N bytes, N at least 1, ends within N steps in a halted state that the Reporter
can read, with at most N - 1 steps counted, the image still in Memory, and one halt path that its final values name.
-/
def Obligations.EveryLaunchEndsExplained : Prop :=
  ∀ (c : Config) (image : List Byte), 1 ≤ c.memorySize → image.length = c.memorySize →
    ∃ (s t : State) (p : HaltPath), launch c image = .next s ∧ runSteps c.memorySize s = .next t ∧
      t.running = false ∧ t.report.isSome = true ∧ t.haltPath = some p ∧ p.holds t ∧
      t.cycleCount + 1 ≤ c.memorySize ∧ t.pc ≤ c.memorySize ∧
      ∀ (a : Nat) (b : Byte), image[a]? = some b → t.memRead a = .ok b

/-- DERIVED, from R75 and R127 (D16; log 9): once halted, any further number of steps changes nothing, so a run's
final state does not depend on how long one watches. -/
def Obligations.HaltedIsTerminal : Prop :=
  ∀ (j k : Nat) (s t : State), runSteps j s = .next t → t.running = false → runSteps (j + k) s = .next t
end

