-- ==== Sys2Proof/Laws/Decode.lean ====
section
/-! SUPPORT. The decoder on each opcode byte (30_encoding.md R54, R55): what later proofs cite instead of unfolding it. -/

namespace Sys2Proof

@[simp] theorem decodeOpcode_nop : decodeOpcode 0x00#8 = .nop := rfl
@[simp] theorem decodeOpcode_mov : decodeOpcode 0x01#8 = .mov := rfl
@[simp] theorem decodeOpcode_add : decodeOpcode 0x02#8 = .add := rfl
@[simp] theorem decodeOpcode_sub : decodeOpcode 0x03#8 = .sub := rfl
@[simp] theorem decodeOpcode_end : decodeOpcode 0x87#8 = .end_ := rfl

/-- Every byte is one of the six rows of the table. -/
theorem decodeOpcode_cases (b : Byte) :
    (b = 0x00 ∧ decodeOpcode b = .nop) ∨ (b = 0x01 ∧ decodeOpcode b = .mov) ∨
    (b = 0x02 ∧ decodeOpcode b = .add) ∨ (b = 0x03 ∧ decodeOpcode b = .sub) ∨
    (b = 0x87 ∧ decodeOpcode b = .end_) ∨
    ((b ≠ 0x00 ∧ b ≠ 0x01 ∧ b ≠ 0x02 ∧ b ≠ 0x03 ∧ b ≠ 0x87) ∧ decodeOpcode b = .unknown b) := by
  unfold decodeOpcode
  split_ifs <;> simp_all

/-- Only the terminator decodes to END. -/
theorem decodeOpcode_eq_end {b : Byte} : decodeOpcode b = .end_ ↔ b = 0x87 := by
  rcases decodeOpcode_cases b with ⟨rfl, -⟩ | ⟨rfl, -⟩ | ⟨rfl, -⟩ | ⟨rfl, -⟩ | ⟨rfl, -⟩ | ⟨hb, h⟩
  all_goals first | decide | simpa [h] using hb.2.2.2.2

/-- An instruction that the decoder answers with an operand byte is well formed. -/
theorem wellFormed_withOperand (b v : Byte) : ((decodeOpcode b).withOperand v).wellFormed = true := by
  rcases decodeOpcode_cases b with ⟨rfl, -⟩ | ⟨rfl, -⟩ | ⟨rfl, -⟩ | ⟨rfl, -⟩ | ⟨rfl, -⟩ | ⟨hb, h⟩
  all_goals first | rfl | simpa [h, Opcode.withOperand, Instr.wellFormed, definedOpcodes] using hb

end Sys2Proof
end

