-- ==== Sys2Proof/Laws/Memory.lean ====
section
/-! SUPPORT. What the Memory operations do (20_memory.md R32 to R34): a read after a write, and the canonical form,
which every operation keeps. -/

namespace Sys2Proof.Machine

/-- Every entry after a `put` is the new one or an old one. -/
theorem Memory.mem_put {m : Memory} {a : Nat} {v : Byte} {c : Host.Cell} (h : c ∈ Memory.put m a v) :
    c = (a, v) ∨ c ∈ m := by
  induction m with
  | nil => simpa [Memory.put] using h
  | cons d m ih =>
    obtain ⟨k, b⟩ := d
    simp only [Memory.put] at h
    split at h
    · simpa using h
    · split at h
      · rcases List.mem_cons.mp h with h | h <;> simp [h]
      · rcases List.mem_cons.mp h with h | h
        · simp [h]
        · rcases ih h with h | h <;> simp [h]

theorem Memory.put_pairwise {m : Memory} (a : Nat) (v : Byte)
    (h : m.Pairwise (fun c d => c.1 < d.1)) : (Memory.put m a v).Pairwise (fun c d => c.1 < d.1) := by
  induction m with
  | nil => simp [Memory.put]
  | cons d m ih =>
    obtain ⟨k, b⟩ := d
    obtain ⟨hk, hm⟩ := List.pairwise_cons.mp h
    simp only [Memory.put]
    split
    · refine List.pairwise_cons.mpr ⟨fun c hc => ?_, h⟩
      rcases List.mem_cons.mp hc with rfl | hc
      · assumption
      · have := hk c hc; simp at this ⊢; omega
    · split
      · subst_vars; exact List.pairwise_cons.mpr ⟨hk, hm⟩
      · refine List.pairwise_cons.mpr ⟨fun c hc => ?_, ih hm⟩
        rcases Memory.mem_put hc with rfl | hc
        · simp; omega
        · exact hk c hc

/-- A cell reads as the value just put into it. -/
@[simp] theorem Memory.find_put_same (m : Memory) (a : Nat) (v : Byte) :
    Memory.find (Memory.put m a v) a = some v := by
  induction m with
  | nil => simp [Memory.put, Memory.find]
  | cons d m ih =>
    obtain ⟨k, b⟩ := d
    simp only [Memory.put]
    split
    · simp [Memory.find]
    · split
      · simp [Memory.find]
      · have : k ≠ a := by omega
        simp [Memory.find, this, ih]

/-- Putting a value into one cell leaves every other cell as it was. -/
theorem Memory.find_put_other (m : Memory) {a a' : Nat} (v : Byte) (h : a' ≠ a) :
    Memory.find (Memory.put m a v) a' = Memory.find m a' := by
  induction m with
  | nil => simp [Memory.put, Memory.find, Ne.symm h]
  | cons d m ih =>
    obtain ⟨k, b⟩ := d
    simp only [Memory.put]
    split
    · simp [Memory.find, Ne.symm h]
    · split
      · subst_vars; simp [Memory.find, Ne.symm h]
      · simp [Memory.find, ih]

theorem Memory.le_of_mem_ofBytes {bs : List Byte} {a : Nat} {c : Host.Cell} (h : c ∈ Memory.ofBytes a bs) :
    a ≤ c.1 ∧ c.1 < a + bs.length := by
  induction bs generalizing a with
  | nil => simp [Memory.ofBytes] at h
  | cons b bs ih =>
    rcases List.mem_cons.mp (by simpa [Memory.ofBytes] using h) with rfl | h
    · simp
    · have := ih h; simp; omega

/-- The cells of a loaded image read as its bytes. -/
theorem Memory.find_ofBytes (bs : List Byte) (a k : Nat) :
    Memory.find (Memory.ofBytes a bs) (a + k) = bs[k]? := by
  induction bs generalizing a k with
  | nil => rfl
  | cons b bs ih =>
    cases k with
    | zero => simp [Memory.ofBytes, Memory.find]
    | succ k =>
      have := ih (a + 1) k
      rw [show a + 1 + k = a + (k + 1) by omega] at this
      simp [Memory.ofBytes, Memory.find, this]

/-! ### Every operation keeps the canonical form -/

theorem Memory.wf_empty (n : Nat) : Memory.wf n [] := by simp [Memory.wf]

theorem Memory.wf_write {n : Nat} {m : Memory} (a : Nat) (v : Byte) (h : Memory.wf n m) :
    Memory.wf n (Memory.write n m a v).mem := by
  unfold Memory.write
  split
  · exact h
  · refine ⟨Memory.put_pairwise a v h.1, fun c hc => ?_⟩
    rcases Memory.mem_put hc with rfl | hc
    · simp; omega
    · exact h.2 c hc

theorem Memory.wf_ofBytes (bs : List Byte) (a : Nat) : Memory.wf (a + bs.length) (Memory.ofBytes a bs) := by
  induction bs generalizing a with
  | nil => simp [Memory.ofBytes, Memory.wf]
  | cons b bs ih =>
    refine ⟨List.pairwise_cons.mpr ⟨fun c hc => ?_, (ih (a + 1)).1⟩, fun c hc => ?_⟩
    · have := Memory.le_of_mem_ofBytes hc; simp; omega
    · have := Memory.le_of_mem_ofBytes hc; omega

theorem Memory.wf_load {n : Nat} {m : Memory} (bytes : List Byte) (h : Memory.wf n m) :
    Memory.wf n (Memory.load n m bytes).mem := by
  unfold Memory.load
  split
  · rename_i hl
    have := Memory.wf_ofBytes bytes 0
    simpa [hl] using this
  · exact h

theorem Memory.wf_writeBytes {n : Nat} {m : Memory} (a : Nat) (bs : List Byte) (h : Memory.wf n m) :
    Memory.wf n (writeBytes n m a bs) := by
  induction bs generalizing m a with
  | nil => exact h
  | cons b bs ih => exact ih (a + 1) (Memory.wf_write a b h)

/-! ### Reads -/

/-- What a read that succeeds says: the index is below N and the cell holds the byte. -/
theorem Memory.read_ok {n : Nat} {m : Memory} {a : Nat} {b : Byte} :
    Memory.read n m a = .ok b ↔ a < n ∧ Memory.find m a = some b := by
  unfold Memory.read
  split
  · simp; omega
  · cases Memory.find m a <;> simp; omega

/-- A read fails exactly on an index from N up, and the failure is OutOfRange. -/
theorem Memory.read_fail {n : Nat} {m : Memory} {a : Nat} {c : Condition} :
    Memory.read n m a = .fail c ↔ n ≤ a ∧ c = .outOfRange := by
  unfold Memory.read
  split
  · rename_i h; simp [h, eq_comm]
  · cases Memory.find m a <;> simp <;> omega

/-- A read finds no value exactly on a cell below N that holds none. -/
theorem Memory.read_unloaded {n : Nat} {m : Memory} {a : Nat} :
    Memory.read n m a = .unloaded ↔ a < n ∧ Memory.find m a = none := by
  unfold Memory.read
  split
  · simp; omega
  · cases Memory.find m a <;> simp; omega

end Sys2Proof.Machine
end

