-- ==== Sys2Proof/Laws/PerInstr.lean ====
section
/-! SUPPORT. The facts stated per constructor of `Instr`: the number of bytes of an encoded instruction is the length
its format has (30_encoding.md R50 to R52). -/

namespace Sys2Proof.Laws.EncodedLength

/-- R50: format OI is two bytes long, format O one. -/
def Statement : Instr → Prop
  | .nop v => (encode (.nop v)).length = 2
  | .mov v => (encode (.mov v)).length = 2
  | .add v => (encode (.add v)).length = 2
  | .sub v => (encode (.sub v)).length = 2
  | .end_ => (encode .end_).length = 1
  | .unknown b => (encode (.unknown b)).length = 1

theorem nop (v : Byte) : Statement (.nop v) := rfl
theorem mov (v : Byte) : Statement (.mov v) := rfl
theorem add (v : Byte) : Statement (.add v) := rfl
theorem sub (v : Byte) : Statement (.sub v) := rfl
theorem end_ : Statement .end_ := rfl
theorem unknown (b : Byte) : Statement (.unknown b) := rfl

end Sys2Proof.Laws.EncodedLength
end

