-- ==== Sys2Proof/Laws/State.lean ====
section
/-! SUPPORT. One lemma per field per update of State, so that no later proof unfolds a record update. -/

namespace Sys2Proof.Machine

/-! ### `setAcc` -/

@[simp] theorem State.setAcc_config (s : State) (v : Byte) : (s.setAcc v).config = s.config := rfl
@[simp] theorem State.setAcc_mem (s : State) (v : Byte) : (s.setAcc v).mem = s.mem := rfl
@[simp] theorem State.setAcc_acc (s : State) (v : Byte) : (s.setAcc v).acc = v := rfl
@[simp] theorem State.setAcc_ir (s : State) (v : Byte) : (s.setAcc v).ir = s.ir := rfl
@[simp] theorem State.setAcc_opr (s : State) (v : Byte) : (s.setAcc v).opr = s.opr := rfl
@[simp] theorem State.setAcc_pc (s : State) (v : Byte) : (s.setAcc v).pc = s.pc := rfl
@[simp] theorem State.setAcc_running (s : State) (v : Byte) : (s.setAcc v).running = s.running := rfl
@[simp] theorem State.setAcc_cycleCount (s : State) (v : Byte) : (s.setAcc v).cycleCount = s.cycleCount := rfl
@[simp] theorem State.setAcc_diag (s : State) (v : Byte) : (s.setAcc v).diag = s.diag := rfl

/-! ### `setIr` -/

@[simp] theorem State.setIr_config (s : State) (op : Byte) : (s.setIr op).config = s.config := rfl
@[simp] theorem State.setIr_mem (s : State) (op : Byte) : (s.setIr op).mem = s.mem := rfl
@[simp] theorem State.setIr_acc (s : State) (op : Byte) : (s.setIr op).acc = s.acc := rfl
@[simp] theorem State.setIr_ir (s : State) (op : Byte) : (s.setIr op).ir = op := rfl
@[simp] theorem State.setIr_opr (s : State) (op : Byte) : (s.setIr op).opr = s.opr := rfl
@[simp] theorem State.setIr_pc (s : State) (op : Byte) : (s.setIr op).pc = s.pc := rfl
@[simp] theorem State.setIr_running (s : State) (op : Byte) : (s.setIr op).running = s.running := rfl
@[simp] theorem State.setIr_cycleCount (s : State) (op : Byte) : (s.setIr op).cycleCount = s.cycleCount := rfl
@[simp] theorem State.setIr_diag (s : State) (op : Byte) : (s.setIr op).diag = s.diag := rfl

/-! ### `setOpr` -/

@[simp] theorem State.setOpr_config (s : State) (v : Byte) : (s.setOpr v).config = s.config := rfl
@[simp] theorem State.setOpr_mem (s : State) (v : Byte) : (s.setOpr v).mem = s.mem := rfl
@[simp] theorem State.setOpr_acc (s : State) (v : Byte) : (s.setOpr v).acc = s.acc := rfl
@[simp] theorem State.setOpr_ir (s : State) (v : Byte) : (s.setOpr v).ir = s.ir := rfl
@[simp] theorem State.setOpr_opr (s : State) (v : Byte) : (s.setOpr v).opr = v := rfl
@[simp] theorem State.setOpr_pc (s : State) (v : Byte) : (s.setOpr v).pc = s.pc := rfl
@[simp] theorem State.setOpr_running (s : State) (v : Byte) : (s.setOpr v).running = s.running := rfl
@[simp] theorem State.setOpr_cycleCount (s : State) (v : Byte) : (s.setOpr v).cycleCount = s.cycleCount := rfl
@[simp] theorem State.setOpr_diag (s : State) (v : Byte) : (s.setOpr v).diag = s.diag := rfl

/-! ### `halt` -/

@[simp] theorem State.halt_config (s : State) : (s.halt).config = s.config := rfl
@[simp] theorem State.halt_mem (s : State) : (s.halt).mem = s.mem := rfl
@[simp] theorem State.halt_acc (s : State) : (s.halt).acc = s.acc := rfl
@[simp] theorem State.halt_ir (s : State) : (s.halt).ir = s.ir := rfl
@[simp] theorem State.halt_opr (s : State) : (s.halt).opr = s.opr := rfl
@[simp] theorem State.halt_pc (s : State) : (s.halt).pc = s.pc := rfl
@[simp] theorem State.halt_running (s : State) : (s.halt).running = false := rfl
@[simp] theorem State.halt_cycleCount (s : State) : (s.halt).cycleCount = s.cycleCount := rfl
@[simp] theorem State.halt_diag (s : State) : (s.halt).diag = s.diag := rfl

/-! ### `count` -/

@[simp] theorem State.count_config (s : State) : (s.count).config = s.config := rfl
@[simp] theorem State.count_mem (s : State) : (s.count).mem = s.mem := rfl
@[simp] theorem State.count_acc (s : State) : (s.count).acc = s.acc := rfl
@[simp] theorem State.count_ir (s : State) : (s.count).ir = s.ir := rfl
@[simp] theorem State.count_opr (s : State) : (s.count).opr = s.opr := rfl
@[simp] theorem State.count_pc (s : State) : (s.count).pc = s.pc := rfl
@[simp] theorem State.count_running (s : State) : (s.count).running = s.running := rfl
@[simp] theorem State.count_cycleCount (s : State) : (s.count).cycleCount = s.cycleCount + 1 := rfl
@[simp] theorem State.count_diag (s : State) : (s.count).diag = s.diag := rfl

/-! ### `advance` -/

@[simp] theorem State.advance_config (s : State) (len : Nat) : (s.advance len).config = s.config := rfl
@[simp] theorem State.advance_mem (s : State) (len : Nat) : (s.advance len).mem = s.mem := rfl
@[simp] theorem State.advance_acc (s : State) (len : Nat) : (s.advance len).acc = s.acc := rfl
@[simp] theorem State.advance_ir (s : State) (len : Nat) : (s.advance len).ir = s.ir := rfl
@[simp] theorem State.advance_opr (s : State) (len : Nat) : (s.advance len).opr = s.opr := rfl
@[simp] theorem State.advance_pc (s : State) (len : Nat) : (s.advance len).pc = s.pc + len := rfl
@[simp] theorem State.advance_running (s : State) (len : Nat) : (s.advance len).running = s.running := rfl
@[simp] theorem State.advance_cycleCount (s : State) (len : Nat) : (s.advance len).cycleCount = s.cycleCount := rfl
@[simp] theorem State.advance_diag (s : State) (len : Nat) : (s.advance len).diag = s.diag := rfl

/-! ### `withMem` -/

@[simp] theorem State.withMem_config (s : State) (m : Memory) : (s.withMem m).config = s.config := rfl
@[simp] theorem State.withMem_mem (s : State) (m : Memory) : (s.withMem m).mem = m := rfl
@[simp] theorem State.withMem_acc (s : State) (m : Memory) : (s.withMem m).acc = s.acc := rfl
@[simp] theorem State.withMem_ir (s : State) (m : Memory) : (s.withMem m).ir = s.ir := rfl
@[simp] theorem State.withMem_opr (s : State) (m : Memory) : (s.withMem m).opr = s.opr := rfl
@[simp] theorem State.withMem_pc (s : State) (m : Memory) : (s.withMem m).pc = s.pc := rfl
@[simp] theorem State.withMem_running (s : State) (m : Memory) : (s.withMem m).running = s.running := rfl
@[simp] theorem State.withMem_cycleCount (s : State) (m : Memory) : (s.withMem m).cycleCount = s.cycleCount := rfl
@[simp] theorem State.withMem_diag (s : State) (m : Memory) : (s.withMem m).diag = s.diag := rfl

/-! ### `checkEnd`, `retire`, `emitDiag` -/

@[simp] theorem State.checkEnd_config (s : State) : s.checkEnd.config = s.config := by
  unfold State.checkEnd; split <;> rfl
@[simp] theorem State.checkEnd_mem (s : State) : s.checkEnd.mem = s.mem := by
  unfold State.checkEnd; split <;> rfl
@[simp] theorem State.checkEnd_acc (s : State) : s.checkEnd.acc = s.acc := by
  unfold State.checkEnd; split <;> rfl
@[simp] theorem State.checkEnd_ir (s : State) : s.checkEnd.ir = s.ir := by
  unfold State.checkEnd; split <;> rfl
@[simp] theorem State.checkEnd_opr (s : State) : s.checkEnd.opr = s.opr := by
  unfold State.checkEnd; split <;> rfl
@[simp] theorem State.checkEnd_pc (s : State) : s.checkEnd.pc = s.pc := by
  unfold State.checkEnd; split <;> rfl
@[simp] theorem State.checkEnd_running (s : State) :
    s.checkEnd.running = (s.running && decide (s.pc < s.config.memorySize)) := by
  unfold State.checkEnd
  split <;> simp <;> omega
@[simp] theorem State.checkEnd_cycleCount (s : State) : s.checkEnd.cycleCount = s.cycleCount := by
  unfold State.checkEnd; split <;> rfl
@[simp] theorem State.checkEnd_diag (s : State) : s.checkEnd.diag = s.diag := by
  unfold State.checkEnd; split <;> rfl
@[simp] theorem State.retire_config (s : State) (len : Nat) : (s.retire len).config = s.config := by
  simp [State.retire]
@[simp] theorem State.retire_mem (s : State) (len : Nat) : (s.retire len).mem = s.mem := by
  simp [State.retire]
@[simp] theorem State.retire_acc (s : State) (len : Nat) : (s.retire len).acc = s.acc := by
  simp [State.retire]
@[simp] theorem State.retire_ir (s : State) (len : Nat) : (s.retire len).ir = s.ir := by
  simp [State.retire]
@[simp] theorem State.retire_opr (s : State) (len : Nat) : (s.retire len).opr = s.opr := by
  simp [State.retire]
@[simp] theorem State.retire_pc (s : State) (len : Nat) : (s.retire len).pc = s.pc + len := by
  simp [State.retire]
@[simp] theorem State.retire_running (s : State) (len : Nat) :
    (s.retire len).running = (s.running && decide (s.pc + len < s.config.memorySize)) := by
  rw [State.retire, State.checkEnd_running]
  rfl
@[simp] theorem State.retire_cycleCount (s : State) (len : Nat) : (s.retire len).cycleCount = s.cycleCount + 1 := by
  simp [State.retire]
@[simp] theorem State.retire_diag (s : State) (len : Nat) : (s.retire len).diag = s.diag := by
  simp [State.retire]
@[simp] theorem State.emitDiag_config (s : State) (b : Byte) : (s.emitDiag b).config = s.config := by
  unfold State.emitDiag; split <;> rfl
@[simp] theorem State.emitDiag_mem (s : State) (b : Byte) : (s.emitDiag b).mem = s.mem := by
  unfold State.emitDiag; split <;> rfl
@[simp] theorem State.emitDiag_acc (s : State) (b : Byte) : (s.emitDiag b).acc = s.acc := by
  unfold State.emitDiag; split <;> rfl
@[simp] theorem State.emitDiag_ir (s : State) (b : Byte) : (s.emitDiag b).ir = s.ir := by
  unfold State.emitDiag; split <;> rfl
@[simp] theorem State.emitDiag_opr (s : State) (b : Byte) : (s.emitDiag b).opr = s.opr := by
  unfold State.emitDiag; split <;> rfl
@[simp] theorem State.emitDiag_pc (s : State) (b : Byte) : (s.emitDiag b).pc = s.pc := by
  unfold State.emitDiag; split <;> rfl
@[simp] theorem State.emitDiag_running (s : State) (b : Byte) : (s.emitDiag b).running = s.running := by
  unfold State.emitDiag; split <;> rfl
@[simp] theorem State.emitDiag_cycleCount (s : State) (b : Byte) : (s.emitDiag b).cycleCount = s.cycleCount := by
  unfold State.emitDiag; split <;> rfl
@[simp] theorem State.emitDiag_diag (s : State) (b : Byte) :
    (s.emitDiag b).diag = s.diag ++ (bif s.config.diagEnabled then [{ pc := s.pc, op := b }] else []) := by
  unfold State.emitDiag; split <;> simp [*]

/-- `retire` as one record update: what R71 to R73 write. -/
theorem State.retire_eq (s : State) (len : Nat) :
    s.retire len = { s with
      cycleCount := s.cycleCount + 1, pc := s.pc + len,
      running := s.running && decide (s.pc + len < s.config.memorySize) } := by
  apply State.ext <;> simp

/-! ### Reads of Memory -/

@[simp] theorem State.setAcc_memRead (s : State) (v : Byte) (a : Nat) : (s.setAcc v).memRead a = s.memRead a := rfl
@[simp] theorem State.setIr_memRead (s : State) (op : Byte) (a : Nat) : (s.setIr op).memRead a = s.memRead a := rfl
@[simp] theorem State.setOpr_memRead (s : State) (v : Byte) (a : Nat) : (s.setOpr v).memRead a = s.memRead a := rfl
@[simp] theorem State.halt_memRead (s : State) (a : Nat) : (s.halt).memRead a = s.memRead a := rfl
@[simp] theorem State.count_memRead (s : State) (a : Nat) : (s.count).memRead a = s.memRead a := rfl
@[simp] theorem State.advance_memRead (s : State) (len a : Nat) : (s.advance len).memRead a = s.memRead a := rfl
@[simp] theorem State.retire_memRead (s : State) (len a : Nat) : (s.retire len).memRead a = s.memRead a := by
  simp [State.memRead]
@[simp] theorem State.emitDiag_memRead (s : State) (b : Byte) (a : Nat) :
    (s.emitDiag b).memRead a = s.memRead a := by
  simp [State.memRead]

end Sys2Proof.Machine
end

