-- ==== Sys2Proof/Laws/Step.lean ====
section
/-! SUPPORT. What `exec` and `step` can do, said once: each instruction's next state and the cases of a step
(40_fetch_decode_execute.md R65). -/

namespace Sys2Proof.Machine

theorem exec_nop (v : Byte) (s : State) : exec (.nop v) s = .next (s.retire 2) := rfl
theorem exec_mov (v : Byte) (s : State) : exec (.mov v) s = .next ((s.setAcc v).retire 2) := rfl
theorem exec_add (v : Byte) (s : State) : exec (.add v) s = .next ((s.setAcc (addBytes s.acc v)).retire 2) := rfl
theorem exec_sub (v : Byte) (s : State) : exec (.sub v) s = .next ((s.setAcc (subBytes s.acc v)).retire 2) := rfl
theorem exec_end (s : State) : exec .end_ s = .next s.halt := rfl
theorem exec_unknown (b : Byte) (s : State) : exec (.unknown b) s = .next ((s.emitDiag b).retire 1) := rfl

/-- What a dispatched instruction can do: END halts; the others write `acc` or emit, and retire. -/
theorem exec_cases {i : Instr} {s t : State} (h : exec i s = .next t) :
    (i = .end_ ∧ t = s.halt) ∨
    (∃ b, i = .unknown b ∧ t = (s.emitDiag b).retire 1) ∨
    (∃ a, t = (s.setAcc a).retire 2 ∧
      ((∃ v, i = .nop v ∧ a = s.acc) ∨ (∃ v, i = .mov v ∧ a = v) ∨
       (∃ v, i = .add v ∧ a = addBytes s.acc v) ∨ (∃ v, i = .sub v ∧ a = subBytes s.acc v))) := by
  cases i with
  | nop v => exact .inr (.inr ⟨s.acc, by simpa [exec_nop, State.setAcc] using h.symm, .inl ⟨v, rfl, rfl⟩⟩)
  | mov v => exact .inr (.inr ⟨v, by simpa [exec_mov] using h.symm, .inr (.inl ⟨v, rfl, rfl⟩)⟩)
  | add v => exact .inr (.inr ⟨_, by simpa [exec_add] using h.symm, .inr (.inr (.inl ⟨v, rfl, rfl⟩))⟩)
  | sub v => exact .inr (.inr ⟨_, by simpa [exec_sub] using h.symm, .inr (.inr (.inr ⟨v, rfl, rfl⟩))⟩)
  | end_ => exact .inl ⟨rfl, by simpa [exec_end] using h.symm⟩
  | unknown b => exact .inr (.inl ⟨b, rfl, by simpa [exec_unknown] using h.symm⟩)

/-- Every instruction answers a next state. -/
theorem exec_answers (i : Instr) (s : State) : ∃ t, exec i s = .next t := by
  cases i <;> exact ⟨_, rfl⟩

theorem step_halted {s : State} (h : s.running = false) : step s = .next s := by
  simp [step, stepLoop, h]

/-- The cases of a step that answers a next state, in R105's order. -/
theorem step_cases {s t : State} (h : step s = .next t) :
    (s.running = false ∧ t = s) ∨
    (s.running = true ∧ s.config.memorySize ≤ s.pc ∧ t = s.halt) ∨
    (s.running = true ∧ s.memRead s.pc = .ok 0x87 ∧ t = (s.setIr 0x87).halt) ∨
    (∃ op, s.running = true ∧ s.memRead s.pc = .ok op ∧ op ≠ 0x87 ∧
      s.config.memorySize ≤ s.pc + 1 ∧ t = (s.setIr op).halt) ∨
    (∃ op v, s.Fetches op v ∧ op ≠ 0x87 ∧
      exec ((decodeOpcode op).withOperand v) ((s.setIr op).setOpr v) = .next t) := by
  unfold step stepLoop at h
  cases hr : s.running with
  | false => simp [hr] at h; exact .inl ⟨rfl, h.symm⟩
  | true =>
    simp only [hr] at h
    cases ho : fetchOpcode s with
    | fail c =>
      simp only [ho] at h
      exact .inr (.inl ⟨rfl, (Memory.read_fail.mp ho).1, by simpa using h.symm⟩)
    | unloaded => simp [ho] at h
    | ok op =>
      simp only [ho] at h
      by_cases he : op = 0x87
      · subst he
        simp [exec_end] at h
        exact .inr (.inr (.inl ⟨rfl, ho, h.symm⟩))
      · simp only [decodeOpcode_eq_end, he, if_false] at h
        cases hv : fetchOperand s with
        | fail c =>
          simp only [hv] at h
          exact .inr (.inr (.inr (.inl
            ⟨op, rfl, ho, he, (Memory.read_fail.mp hv).1, by simpa using h.symm⟩)))
        | unloaded => simp [hv] at h
        | ok v =>
          simp only [hv] at h
          exact .inr (.inr (.inr (.inr ⟨op, v, ⟨hr, ho, hv⟩, he, h⟩)))

/-- A step whose two fetches succeed and whose opcode is not END runs the decoded instruction. -/
theorem step_dispatch {s : State} {op v : Byte} (h : s.Fetches op v) (he : op ≠ 0x87) :
    step s = exec ((decodeOpcode op).withOperand v) ((s.setIr op).setOpr v) := by
  obtain ⟨hr, ho, hv⟩ := h
  have hne : decodeOpcode op ≠ .end_ := fun h => he (decodeOpcode_eq_end.mp h)
  simp [step, stepLoop, hr, fetchOpcode, fetchOperand, ho, hv, hne]

/-- Where a word is placed, both bytes are read back, if both cells exist. -/
theorem placeWord_fetches {s : State} (nbits w : Nat) (h : s.pc + 1 < s.config.memorySize) :
    (placeWord s nbits w).Fetches (BitVec.ofNat 8 (w % 2 ^ nbits)) (BitVec.ofNat 8 (w % 2 ^ nbits / 256)) := by
  have h0 : ¬ s.config.memorySize ≤ s.pc := by omega
  have h1 : ¬ s.config.memorySize ≤ s.pc + 1 := by omega
  have hne : s.pc ≠ s.pc + 1 := by omega
  simp [State.Fetches, placeWord, State.memRead, Memory.read, wordBytes, writeBytes, Memory.write, h0, h1,
    Memory.find_put_other _ _ hne]

end Sys2Proof.Machine
end

