-- ==== Sys2Proof/Laws/Run.lean ====
section
/-! SUPPORT. Runs of several steps: their equations, and that they are the runs of the host's interface. -/

namespace Sys2Proof.Machine

@[simp] theorem runSteps_zero (s : State) : runSteps 0 s = .next s := rfl

theorem runSteps_succ (k : Nat) (s : State) :
    runSteps (k + 1) s = (match step s with
      | .next t => runSteps k t
      | .fault r => .fault r
      | .refused r => .refused r) := rfl

/-- What holds of a state and is kept by every step holds after any number of steps. -/
theorem runSteps_induction {P : State → Prop} (hstep : ∀ s t, P s → step s = .next t → P t)
    {k : Nat} {s t : State} (hs : P s) (h : runSteps k s = .next t) : P t := by
  induction k generalizing s with
  | zero =>
    obtain rfl : s = t := by simpa using h
    exact hs
  | succ k ih =>
    rw [runSteps_succ] at h
    cases hu : step s with
    | next u => exact ih (hstep s u hs hu) (by simpa [hu] using h)
    | fault r => simp [hu] at h
    | refused r => simp [hu] at h

/-- The host's run of any machine goes on from the next state. -/
theorem hostRun_next {M : Host.Core} {k : Nat} {s t : M.State} (h : M.step s = .next t) :
    M.run (k + 1) s = M.run k t := by
  simp [Host.Core.run, h]

/-- The host's run of any machine stops at a fault. -/
theorem hostRun_fault {M : Host.Core} {k : Nat} {s : M.State} {r : M.Fault} (h : M.step s = .fault r) :
    M.run (k + 1) s = .fault r := by
  simp [Host.Core.run, h]

/-- The host's run of any machine stops at a refusal. -/
theorem hostRun_refused {M : Host.Core} {k : Nat} {s : M.State} {r : M.Refusal} (h : M.step s = .refused r) :
    M.run (k + 1) s = .refused r := by
  simp [Host.Core.run, h]

/-- `runSteps` is the run of the host's interface. -/
theorem core_run_eq_runSteps (k : Nat) (s : State) : Sys2Proof.core.run k s = runSteps k s := by
  induction k generalizing s with
  | zero => rfl
  | succ k ih =>
    rw [runSteps_succ]
    cases hs : step s with
    | next t => exact (hostRun_next (M := Sys2Proof.core) hs).trans (ih t)
    | fault r => exact hostRun_fault (M := Sys2Proof.core) hs
    | refused r => exact hostRun_refused (M := Sys2Proof.core) hs

end Sys2Proof.Machine
end

