-- ==== Sys2Proof/Tests/Slice0.lean ====
section
/-! SUPPORT. The session's own tests. Expected results are the spec's: the table of 30_encoding.md R54 and the vectors of
95_test_vectors.md, named in each comment. The last part shows, for each statement with hypotheses, a state that meets
them, each clause at a boundary of its range. -/

namespace Sys2Proof.Tests

open Sys2Proof.Machine

/-- A running state with bytes in the cells from index `a` on. -/
def state (acc ir opr : Byte) (pc cc a : Nat) (bs : List Byte) : State :=
  { State.reset with acc := acc, ir := ir, opr := opr, pc := pc, cycleCount := cc, mem := Memory.ofBytes a bs }

/-- The line the vectors write a state as: acc ir opr pc cycle_count running. -/
def line (s : State) : Byte × Byte × Byte × Nat × Nat × Bool :=
  (s.acc, s.ir, s.opr, s.pc, s.cycleCount, s.running)

def stepLine (s : State) : Option (Byte × Byte × Byte × Nat × Nat × Bool) := (nextState (step s)).map line

def stepDiag (s : State) : Option (List DiagEvent) := (nextState (step s)).map State.diag

/-! ### WellFormed: an ill-formed term for each check -/

theorem test_unknown_00_is_ill_formed : (Instr.unknown 0x00).wellFormed = false := by decide
theorem test_unknown_01_is_ill_formed : (Instr.unknown 0x01).wellFormed = false := by decide
theorem test_unknown_02_is_ill_formed : (Instr.unknown 0x02).wellFormed = false := by decide
theorem test_unknown_03_is_ill_formed : (Instr.unknown 0x03).wellFormed = false := by decide
theorem test_unknown_87_is_ill_formed : (Instr.unknown 0x87).wellFormed = false := by decide
/-- 95_test_vectors.md section 2.1: the neighbours of the defined opcodes are unknown. -/
theorem test_neighbours_are_well_formed :
    [0x04, 0x86, 0x88, 0xFF, 0x80, 0x83].all (fun b => (Instr.unknown b).wellFormed) = true := by decide

/-! ### Decode: words written out from R51, R52, R54 -/

theorem test_decode_nop : decodeTableWord 16 0b0101010100000000 = some (.nop 0x55) := by decide
theorem test_decode_mov : decodeTableWord 16 0b0010101000000001 = some (.mov 0x2A) := by decide
theorem test_decode_add : decodeTableWord 16 0b1111111100000010 = some (.add 0xFF) := by decide
theorem test_decode_sub : decodeTableWord 16 0b0000000100000011 = some (.sub 0x01) := by decide
theorem test_decode_end : decodeTableWord 8 0b10000111 = some .end_ := by decide
theorem test_decode_unknown : decodeTableWord 8 0b10011001 = some (.unknown 0x99) := by decide
/-- R55: "0x80, 0x81, 0x07 and 0x86 are all UNKNOWN". -/
theorem test_decode_whole_byte :
    [0x80, 0x81, 0x07, 0x86].map decodeOpcode =
      [.unknown 0x80, .unknown 0x81, .unknown 0x07, .unknown 0x86] := by decide
theorem test_decode_rejects_no_bytes : (match decode [] with | .error e => e == .noOpcode | .ok _ => false) = true := by
  decide
theorem test_decode_rejects_no_operand :
    (match decode [0x01] with | .error e => e == .noOperand | .ok _ => false) = true := by decide
theorem test_encode :
    [Instr.nop 0x55, .mov 0x2A, .add 0xFF, .sub 0x01, .end_, .unknown 0x99].map encode =
      [[0x00, 0x55], [0x01, 0x2A], [0x02, 0xFF], [0x03, 0x01], [0x87], [0x99]] := by decide

/-! ### One step: the vectors of 95_test_vectors.md sections 2.2 to 2.5 -/

/-- V1. -/
theorem test_nop : stepLine (state 0xE0 0x03 0x30 6 3 6 [0x00, 0x55]) = some (0xE0, 0x00, 0x55, 8, 4, true) := by decide
/-- V19. -/
theorem test_nop_at_end :
    stepLine (state 0x05 0x00 0x00 30 15 30 [0x00, 0x87]) = some (0x05, 0x00, 0x87, 32, 16, false) := by decide
/-- V5. -/
theorem test_mov : stepLine (state 0x12 0x01 0x12 4 2 4 [0x01, 0x87]) = some (0x87, 0x01, 0x87, 6, 3, true) := by decide
/-- V18. -/
theorem test_mov_at_end :
    stepLine (state 0x05 0x00 0x00 30 15 30 [0x01, 0x11]) = some (0x11, 0x01, 0x11, 32, 16, false) := by decide
/-- V7. -/
theorem test_add_wraps : stepLine (state 0xFF 0x02 0xFF 2 1 2 [0x02, 0x01]) = some (0x00, 0x02, 0x01, 4, 2, true) := by
  decide
/-- V24. -/
theorem test_add_in_last_cell :
    stepLine (state 0x05 0x00 0x00 31 16 31 [0x02]) = some (0x05, 0x02, 0x00, 31, 16, false) := by decide
/-- V9. -/
theorem test_sub_wraps : stepLine (state 0x00 0x00 0x00 0 0 0 [0x03, 0x01]) = some (0xFF, 0x03, 0x01, 2, 1, true) := by
  decide
/-- Section 2.3: 10 - 30 gives E0, not 20. -/
theorem test_sub_order :
    stepLine (state 0x10 0x00 0x00 0 0 0 [0x03, 0x30]) = some (0xE0, 0x03, 0x30, 2, 1, true) := by decide
/-- V12, with the cell after END holding no value: it is not read. -/
theorem test_end : stepLine (state 0x2A 0x01 0x2A 2 1 2 [0x87]) = some (0x2A, 0x87, 0x2A, 2, 1, false) := by decide
/-- V22. -/
theorem test_end_in_last_cell :
    stepLine (state 0x05 0x00 0x00 31 16 31 [0x87]) = some (0x05, 0x87, 0x00, 31, 16, false) := by decide
/-- V15. -/
theorem test_unknown : stepLine (state 0x07 0x01 0x07 3 2 3 [0xFF, 0x87]) = some (0x07, 0xFF, 0x87, 4, 3, true) ∧
    stepDiag (state 0x07 0x01 0x07 3 2 3 [0xFF, 0x87]) = some [{ pc := 3, op := 0xFF }] := by decide
/-- V23. -/
theorem test_unknown_in_last_cell :
    stepLine (state 0x05 0x00 0x00 31 16 31 [0x99]) = some (0x05, 0x99, 0x00, 31, 16, false) ∧
    stepDiag (state 0x05 0x00 0x00 31 16 31 [0x99]) = some [] := by decide
/-- V25. -/
theorem test_opcode_out_of_range :
    stepLine (state 0x05 0x00 0x00 32 16 0 []) = some (0x05, 0x00, 0x00, 32, 16, false) := by decide
/-- V26. -/
theorem test_halted_stays :
    stepLine { state 0x05 0x87 0x00 31 16 31 [0x87] with running := false } =
      some (0x05, 0x87, 0x00, 31, 16, false) := by decide

/-! ### Memory: section 2.6 -/

theorem test_read_range :
    [31, 32, 255, 256, 1000].map (Memory.read 32 (Memory.ofBytes 0 (List.replicate 32 0x2A))) =
      [.ok 0x2A, .fail .outOfRange, .fail .outOfRange, .fail .outOfRange, .fail .outOfRange] := by decide
theorem test_write_last_cell : Memory.read 32 (Memory.write 32 [] 31 0xAA).mem 31 = .ok 0xAA := by decide
theorem test_write_out_of_range : Memory.write 32 [(0, 1)] 32 0xAA = { mem := [(0, 1)], failure := some .outOfRange } := by
  decide
theorem test_load_lengths :
    [0, 31, 32, 33].map (fun k => (Memory.load 32 [] (List.replicate k 0)).failure) =
      [some .malformedLoad, some .malformedLoad, none, some .malformedLoad] := by decide

/-! ### Launch and the reset input -/

/-- S2's program with its padding, launched. -/
def launched : Option State :=
  nextState (launch Config.canonical ([0x01, 0x2A, 0x87] ++ List.replicate 29 0x00))

/-- R21, R124: the launched state is the reset state, with no diagnostics. -/
theorem test_launch_registers :
    launched.map line = some (0x00, 0x00, 0x00, 0, 0, true) ∧ launched.map State.diag = some [] := by decide
/-- R32, R124: the image stands in Memory. -/
theorem test_launch_memory :
    launched.map (fun s => [0, 1, 2, 31, 32].map s.memRead) =
      some [.ok 0x01, .ok 0x2A, .ok 0x87, .ok 0x00, .fail .outOfRange] := by decide
/-- R120, R122: the reset input on a halted machine with a diagnostic behind it. -/
theorem test_cpu_reset :
    (fun s : State => (line s.cpuReset, s.cpuReset.diag, s.cpuReset.memRead 31))
        { state 0x05 0x87 0x11 31 16 31 [0x87] with running := false, diag := [{ pc := 0, op := 0x99 }] } =
      ((0x00, 0x00, 0x00, 0, 0, true), [], .ok 0x87) := by decide

/-! ### A word of the opcode table as the first instruction after reset -/

theorem test_first_nop : stepLine (State.reset.withFetchWord 16 0x5500) = some (0x00, 0x00, 0x55, 2, 1, true) := by decide
theorem test_first_mov : stepLine (State.reset.withFetchWord 16 0x2A01) = some (0x2A, 0x01, 0x2A, 2, 1, true) := by decide
theorem test_first_add : stepLine (State.reset.withFetchWord 16 0xFF02) = some (0xFF, 0x02, 0xFF, 2, 1, true) := by decide
theorem test_first_sub : stepLine (State.reset.withFetchWord 16 0x0103) = some (0xFF, 0x03, 0x01, 2, 1, true) := by decide
theorem test_first_end : stepLine (State.reset.withFetchWord 8 0x87) = some (0x00, 0x87, 0x00, 0, 0, false) := by decide
theorem test_first_unknown : stepLine (State.reset.withFetchWord 8 0x99) = some (0x00, 0x99, 0x00, 1, 1, true) := by decide

/-! ### Witnesses: states that meet each statement's hypotheses -/

/-- `99 01` at the start. -/
def atUnknown : State := state 0x00 0x00 0x00 0 0 0 [0x99, 0x01]
/-- `55 87` in the last two cells. -/
def atUnknownThenEnd : State := state 0x00 0x00 0x00 30 15 30 [0x55, 0x87]
/-- `01 11` in the last two cells. -/
def atLastMov : State := state 0x05 0x00 0x00 30 15 30 [0x01, 0x11]
/-- `02 01` with the accumulator at 0xFF. -/
def atAdd : State := state 0xFF 0x00 0x00 0 0 0 [0x02, 0x01]
/-- `03 01` with the accumulator at 0. -/
def atSub : State := state 0x00 0x00 0x00 0 0 0 [0x03, 0x01]
/-- `00 55` in the last two cells. -/
def atNop : State := state 0x05 0x00 0x00 30 15 30 [0x00, 0x55]
/-- END in the last cell. -/
def atLastEnd : State := state 0x05 0x00 0x00 31 16 31 [0x87]
/-- An opcode in the last cell. -/
def atLastCell (op : Byte) : State := state 0x05 0x00 0x00 31 16 31 [op]
/-- The cursor past the end of a machine that runs. -/
def pastEnd : State := state 0x05 0x00 0x00 32 16 0 []
/-- A loaded Memory of one cell, the least N. -/
def oneCell : State := { State.reset with config := { memorySize := 1, diagEnabled := false }, mem := [(0, 0x87)] }
/-- A loaded Memory of 32 cells. -/
def zeros : State := { State.reset with mem := Memory.ofBytes 0 (List.replicate 32 0x00) }

theorem witness_DecodeOpcodeMatchesTable :
    (0x04 : Byte) ≠ 0x00 ∧ (0x04 : Byte) ≠ 0x01 ∧ (0x04 : Byte) ≠ 0x02 ∧ (0x04 : Byte) ≠ 0x03 ∧ (0x04 : Byte) ≠ 0x87 := by
  decide
theorem witness_DecodeOfEncode :
    [Instr.nop 0xFF, .mov 0xFF, .add 0xFF, .sub 0xFF, .end_, .unknown 0x04, .unknown 0xFF].all Instr.wellFormed = true := by
  decide
theorem witness_EncodeOfDecode : decode [0x01, 0x87, 0x99] = .ok (.mov 0x87, [0x99]) := rfl
theorem witness_PlacedWordIsTheNextInstruction :
    ({ State.reset with pc := 30 } : State).pc + 1 < ({ State.reset with pc := 30 } : State).config.memorySize ∧
    decodeTableWord 16 0xFF03 = some (.sub 0xFF) := by decide
theorem witness_InstructionFrame_data :
    exec (.nop 0xFF) atNop = .next (atNop.retire 2) ∧ (∀ v, Instr.nop 0xFF ≠ .mov v) ∧ (∀ v, Instr.nop 0xFF ≠ .add v) ∧
    (∀ v, Instr.nop 0xFF ≠ .sub v) ∧ (∀ b, Instr.nop 0xFF ≠ .unknown b) :=
  ⟨rfl, nofun, nofun, nofun, nofun⟩
theorem witness_InstructionFrame_end :
    exec .end_ { atLastEnd with running := false } = .next { atLastEnd with running := false } ∧
    ({ atLastEnd with running := false } : State).running = false := ⟨rfl, rfl⟩
theorem witness_StepRunsDecodedInstruction :
    atLastMov.running = true ∧ atLastMov.memRead atLastMov.pc = .ok 0x01 ∧
    atLastMov.memRead (atLastMov.pc + 1) = .ok 0x11 ∧ decode [0x01, 0x11] = .ok (.mov 0x11, []) ∧
    Instr.mov 0x11 ≠ .end_ := ⟨rfl, rfl, rfl, rfl, by decide⟩
theorem witness_StepRunsDecodedInstruction_end :
    atLastEnd.running = true ∧ atLastEnd.memRead atLastEnd.pc = .ok 0x87 ∧ decode [0x87] = .ok (.end_, []) :=
  ⟨rfl, rfl, rfl⟩
theorem witness_NopFullStep :
    atNop.running = true ∧ atNop.memRead atNop.pc = .ok 0x00 ∧ atNop.memRead (atNop.pc + 1) = .ok 0x55 := by decide
theorem witness_NopFullStep_last_cell :
    (atLastCell 0x00).running = true ∧ (atLastCell 0x00).memRead 31 = .ok 0x00 ∧
    (atLastCell 0x00).memRead ((atLastCell 0x00).pc + 1) = .fail .outOfRange := by decide
theorem witness_MovFullStep :
    atLastMov.running = true ∧ atLastMov.memRead atLastMov.pc = .ok 0x01 ∧
    atLastMov.memRead (atLastMov.pc + 1) = .ok 0x11 := by decide
theorem witness_MovFullStep_last_cell :
    (atLastCell 0x01).running = true ∧ (atLastCell 0x01).memRead 31 = .ok 0x01 ∧
    (atLastCell 0x01).memRead ((atLastCell 0x01).pc + 1) = .fail .outOfRange := by decide
theorem witness_AddFullStep :
    atAdd.running = true ∧ atAdd.memRead atAdd.pc = .ok 0x02 ∧ atAdd.memRead (atAdd.pc + 1) = .ok 0x01 := by decide
theorem witness_AddFullStep_last_cell :
    (atLastCell 0x02).running = true ∧ (atLastCell 0x02).memRead 31 = .ok 0x02 ∧
    (atLastCell 0x02).memRead ((atLastCell 0x02).pc + 1) = .fail .outOfRange := by decide
theorem witness_SubFullStep :
    atSub.running = true ∧ atSub.memRead atSub.pc = .ok 0x03 ∧ atSub.memRead (atSub.pc + 1) = .ok 0x01 := by decide
theorem witness_SubFullStep_last_cell :
    (atLastCell 0x03).running = true ∧ (atLastCell 0x03).memRead 31 = .ok 0x03 ∧
    (atLastCell 0x03).memRead ((atLastCell 0x03).pc + 1) = .fail .outOfRange := by decide
theorem witness_EndFullStep : atLastEnd.running = true ∧ atLastEnd.memRead atLastEnd.pc = .ok 0x87 := by decide
theorem witness_UnknownFullStep :
    (Instr.unknown 0x55).wellFormed = true ∧ atUnknownThenEnd.running = true ∧
    atUnknownThenEnd.memRead atUnknownThenEnd.pc = .ok 0x55 ∧
    atUnknownThenEnd.memRead (atUnknownThenEnd.pc + 1) = .ok 0x87 := by decide
theorem witness_UnknownFullStep_last_cell :
    (Instr.unknown 0x88).wellFormed = true ∧ (atLastCell 0x88).running = true ∧
    (atLastCell 0x88).memRead (atLastCell 0x88).pc = .ok 0x88 ∧
    (atLastCell 0x88).memRead ((atLastCell 0x88).pc + 1) = .fail .outOfRange := by decide
theorem witness_ByteAfterUnknownIsRefetched :
    (Instr.unknown 0x55).wellFormed = true ∧ atUnknownThenEnd.Fetches 0x55 0x87 ∧
    ∃ t, step atUnknownThenEnd = .next t := ⟨rfl, ⟨rfl, rfl, rfl⟩, _, rfl⟩
theorem witness_ReadOneByte :
    32 ≤ 32 ∧ 31 < 32 ∧ Memory.find (Memory.ofBytes 31 [0x2A]) 31 = some 0x2A ∧
    pastEnd.running = true ∧ pastEnd.memRead pastEnd.pc = .fail .outOfRange := by decide
theorem witness_ReadOneByte_operand :
    (atLastCell 0x99).running = true ∧ (atLastCell 0x99).memRead (atLastCell 0x99).pc = .ok 0x99 ∧
    (0x99 : Byte) ≠ 0x87 ∧ (atLastCell 0x99).memRead ((atLastCell 0x99).pc + 1) = .fail .outOfRange := by decide
theorem witness_WriteOneByte : 31 < 32 ∧ 30 ≠ 31 ∧ 32 ≤ 32 ∧ ∃ t, step atLastMov = .next t :=
  ⟨by decide, by decide, by decide, _, rfl⟩
theorem witness_LoadExactlyNBytes :
    (List.replicate 32 (0x2A : Byte)).length = State.reset.config.memorySize ∧
    (List.replicate 32 (0x2A : Byte))[31]? = some 0x2A ∧
    (List.replicate 31 (0x2A : Byte)).length ≠ State.reset.config.memorySize := by decide
theorem witness_RunsKeepMemoryAndParameters : ∃ t, runSteps 2 atUnknownThenEnd = .next t := ⟨_, rfl⟩
theorem witness_StepReadsOnlyFetchedCells :
    Memory.read atLastMov.config.memorySize (Memory.ofBytes 29 [0x99, 0x01, 0x11]) atLastMov.pc =
      atLastMov.memRead atLastMov.pc ∧
    Memory.read atLastMov.config.memorySize (Memory.ofBytes 29 [0x99, 0x01, 0x11]) (atLastMov.pc + 1) =
      atLastMov.memRead (atLastMov.pc + 1) := by decide
theorem witness_StepReadsOnlyFetchedCells_end :
    Memory.read atLastEnd.config.memorySize (Memory.ofBytes 30 [0x99, 0x87]) atLastEnd.pc =
      atLastEnd.memRead atLastEnd.pc ∧ atLastEnd.memRead atLastEnd.pc = .ok 0x87 := by decide
theorem witness_CursorAdvancesByLength :
    (∃ t, step atLastMov = .next t) ∧ atLastMov.Fetches 0x01 0x11 ∧ (0x01 : Byte) ≠ 0x87 :=
  ⟨⟨_, rfl⟩, ⟨rfl, rfl, rfl⟩, by decide⟩
theorem witness_CursorAdvancesByLength_no_dispatch :
    (∃ t, step pastEnd = .next t) ∧ ∀ op v : Byte, pastEnd.Fetches op v → op = 0x87 :=
  ⟨⟨_, rfl⟩, fun _ _ h => nomatch h.2.1⟩
theorem witness_CountsExecutedAndSkipped :
    (∃ t, step atUnknown = .next t ∧ t.cycleCount = atUnknown.cycleCount + 1) ∧
    (∃ t, step atLastEnd = .next t ∧ t.cycleCount = atLastEnd.cycleCount) := ⟨⟨_, rfl, rfl⟩, ⟨_, rfl, rfl⟩⟩
theorem witness_HaltsWhenCursorReachesEnd :
    atLastMov.Fetches 0x01 0x11 ∧ (0x01 : Byte) ≠ 0x87 ∧ ∃ t, step atLastMov = .next t ∧ t.running = false :=
  ⟨⟨rfl, rfl, rfl⟩, by decide, _, rfl, rfl⟩
theorem witness_HaltingStepTouchesOnlyIr :
    (atLastCell 0x99).running = true ∧ ∃ t, step (atLastCell 0x99) = .next t ∧
      t.cycleCount = (atLastCell 0x99).cycleCount ∧ (atLastCell 0x99).pc < (atLastCell 0x99).config.memorySize :=
  ⟨rfl, _, rfl, rfl, by decide⟩
theorem witness_HaltingStepTouchesOnlyIr_past_end :
    pastEnd.running = true ∧ ∃ t, step pastEnd = .next t ∧ t.cycleCount = pastEnd.cycleCount ∧
      pastEnd.config.memorySize ≤ pastEnd.pc := ⟨rfl, _, rfl, rfl, by decide⟩
theorem witness_AccumulatorChangesOnlyByMovAddSub :
    (∃ t, step atLastMov = .next t ∧ t.acc ≠ atLastMov.acc) ∧ (∃ t, step atAdd = .next t ∧ t.acc ≠ atAdd.acc) ∧
    (∃ t, step atSub = .next t ∧ t.acc ≠ atSub.acc) :=
  ⟨⟨_, rfl, by decide⟩, ⟨_, rfl, by decide⟩, ⟨_, rfl, by decide⟩⟩
theorem witness_RunsAreMonotone :
    (∃ t, runSteps 2 atUnknownThenEnd = .next t) ∧
    (∃ t, runSteps 2 { atLastEnd with running := false } = .next t) := ⟨⟨_, rfl⟩, ⟨_, rfl⟩⟩
theorem witness_ConditionsDecideTheStep :
    (atLastCell 0x99).stepCondition = some .outOfRange ∧ pastEnd.stepCondition = some .outOfRange ∧
    atUnknown.stepCondition = some .unknownOpcode ∧ atLastEnd.stepCondition = none ∧ atLastEnd.running = true := by decide
theorem witness_ConditionsDecideTheStep_next :
    (∃ t, step (atLastCell 0x99) = .next t) ∧ (∃ t, step pastEnd = .next t) ∧ (∃ t, step atUnknown = .next t) ∧
    (∃ t, step atLastEnd = .next t) := ⟨⟨_, rfl⟩, ⟨_, rfl⟩, ⟨_, rfl⟩, ⟨_, rfl⟩⟩
theorem witness_StepStopsOnlyOnUnloadedMemory :
    step State.reset = .refused .unloadedMemory ∧
    step (state 0x00 0x00 0x00 0 0 0 [0x01]) = .refused .unloadedMemory := ⟨rfl, rfl⟩
theorem witness_OneDiagnosticPerUnknownStep :
    (∃ t, step atUnknown = .next t) ∧ atUnknown.Fetches 0x99 0x01 ∧ decodeOpcode 0x99 = .unknown 0x99 ∧
    atUnknown.config.diagEnabled = true := ⟨⟨_, rfl⟩, ⟨rfl, rfl, rfl⟩, rfl, rfl⟩
theorem witness_OneDiagnosticPerUnknownStep_off : (∃ t, step oneCell = .next t) ∧ oneCell.config.diagEnabled = false :=
  ⟨⟨_, rfl⟩, rfl⟩
theorem witness_OneDiagnosticPerUnknownStep_known :
    (∃ t, step (atLastCell 0x99) = .next t) ∧
    ∀ op v : Byte, (atLastCell 0x99).Fetches op v → decodeOpcode op ≠ .unknown op :=
  ⟨⟨_, rfl⟩, fun _ _ h => nomatch h.2.2⟩
theorem witness_ReportOnlyWhenHalted :
    State.reset.running = true ∧ ({ State.reset with running := false } : State).running = false := by decide
theorem witness_ResetState : 31 < 32 := by decide
theorem witness_MalformedLaunchIsRefused : (List.replicate 33 (0 : Byte)).length ≠ Config.canonical.memorySize := by decide
theorem witness_LaunchMeetsInvariant :
    1 ≤ oneCell.config.memorySize ∧ [(0x87 : Byte)].length = oneCell.config.memorySize ∧
    [(0x87 : Byte)][0]? = some 0x87 := by decide
theorem witness_StepKeepsInvariant : atLastMov.Inv ∧ ∃ t, step atLastMov = .next t :=
  ⟨⟨by decide, by decide, by decide, by decide, by decide⟩, _, rfl⟩
theorem witness_StepKeepsHaltExplained :
    atLastMov.Inv ∧ atLastMov.HaltExplained ∧ ∃ t, step atLastMov = .next t ∧ t.running = false :=
  ⟨⟨by decide, by decide, by decide, by decide, by decide⟩, nofun, _, rfl, rfl⟩
theorem witness_EveryLoadedRunHalts : zeros.Inv ∧ zeros.loaded :=
  ⟨⟨by decide, by decide, by decide, by decide, by decide⟩, by decide⟩
theorem witness_EveryLaunchEndsExplained :
    1 ≤ Config.canonical.memorySize ∧ (List.replicate 32 (0xFF : Byte)).length = Config.canonical.memorySize := by decide
theorem witness_HaltedIsTerminal : ∃ t, runSteps 1 atLastEnd = .next t ∧ t.running = false := ⟨_, rfl, rfl⟩

end Sys2Proof.Tests
end

section
/-! The family of 20_memory.md: Memory's read and write contract (R33, R34), and what a step does with it. -/

namespace Sys2Proof.Machine

/-! ### A write of one cell -/

theorem Memory.write_below {n a : Nat} (m : Memory) (v : Byte) (h : a < n) :
    Memory.write n m a v = { mem := Memory.put m a v, failure := none } :=
  if_neg (Nat.not_le.mpr h)

theorem Memory.write_outside {n a : Nat} (m : Memory) (v : Byte) (h : n ≤ a) :
    Memory.write n m a v = { mem := m, failure := some .outOfRange } :=
  if_pos h

/-- A read depends on Memory only through the cell it reads. -/
theorem Memory.read_congr (n : Nat) {m m' : Memory} {a : Nat} (h : Memory.find m a = Memory.find m' a) :
    Memory.read n m a = Memory.read n m' a := by
  simp only [Memory.read, h]

theorem Memory.read_write_same {n a : Nat} (m : Memory) (v : Byte) (h : a < n) :
    Memory.read n (Memory.write n m a v).mem a = .ok v := by
  rw [Memory.write_below m v h]
  exact Memory.read_ok.mpr ⟨h, Memory.find_put_same m a v⟩

/-- A write leaves what every other index reads as, whether it succeeds or fails. -/
theorem Memory.read_write_other (n : Nat) (m : Memory) {a a' : Nat} (v : Byte) (h : a' ≠ a) :
    Memory.read n (Memory.write n m a v).mem a' = Memory.read n m a' := by
  rcases Nat.lt_or_ge a n with ha | ha
  · rw [Memory.write_below m v ha]
    exact Memory.read_congr n (Memory.find_put_other m v h)
  · rw [Memory.write_outside m v ha]

/-! ### Memory under a step -/

/-- R27, R35: no instruction writes Memory. -/
theorem exec_mem {i : Instr} {s t : State} (h : exec i s = .next t) : t.mem = s.mem := by
  obtain ⟨-, rfl⟩ | ⟨b, -, rfl⟩ | ⟨a, rfl, -⟩ := exec_cases h
  · exact State.halt_mem s
  · simp
  · simp

/-- R35: no step writes Memory, neither its fetches nor its halts nor the instruction it runs. -/
theorem step_mem {s t : State} (h : step s = .next t) : t.mem = s.mem := by
  obtain ⟨-, rfl⟩ | ⟨-, -, rfl⟩ | ⟨-, -, rfl⟩ | ⟨op, -, -, -, -, rfl⟩ | ⟨op, v, -, -, hexec⟩ := step_cases h
  · rfl
  · exact State.halt_mem s
  · simp
  · simp
  · simpa using exec_mem hexec

/-- R66: a step whose opcode read fails halts and writes nothing else. -/
theorem step_opcode_fail {s : State} {c : Condition} (hr : s.running = true) (ho : s.memRead s.pc = .fail c) :
    step s = .next s.halt := by
  simp [step, stepLoop, hr, fetchOpcode, ho]

/-- R68: a step whose operand read fails, after an opcode other than END, has written `ir` and halts. -/
theorem step_operand_fail {s : State} {op : Byte} {c : Condition} (hr : s.running = true)
    (ho : s.memRead s.pc = .ok op) (he : op ≠ 0x87) (hv : s.memRead (s.pc + 1) = .fail c) :
    step s = .next (s.setIr op).halt := by
  have hne : decodeOpcode op ≠ .end_ := fun h => he (decodeOpcode_eq_end.mp h)
  simp [step, stepLoop, hr, fetchOpcode, fetchOperand, ho, hv, hne]

/-! ### The obligations -/

/-- Settles O21: the write's two cases and the reads after it, and that no case of a step writes Memory. -/
theorem writeOneByte : Obligations.WriteOneByte := by
  refine ⟨fun n m a v ha => ⟨?_, Memory.read_write_same m v ha, fun _ => Memory.read_write_other n m v⟩,
    fun _ m _ v => Memory.write_outside m v, fun _ _ => step_mem⟩
  rw [Memory.write_below m v ha]

/-- Settles O20: the read's two cases, and the halt that the step makes of a failure of either fetch. -/
theorem readOneByte : Obligations.ReadOneByte :=
  ⟨fun _ _ _ ha => Memory.read_fail.mpr ⟨ha, rfl⟩,
   fun _ _ _ _ ha hb => Memory.read_ok.mpr ⟨ha, hb⟩,
   fun s hr ho => ⟨s.halt, step_opcode_fail hr ho, State.halt_running s⟩,
   fun s op hr ho he hv => ⟨(s.setIr op).halt, step_operand_fail hr ho he hv, State.halt_running _⟩⟩

end Sys2Proof.Machine
end

section
/-! The family of 30_encoding.md: the decoder's table of opcode bytes (R55). -/

namespace Sys2Proof

/-- R55: every byte outside the table's five rows is UNKNOWN, and carries that byte. -/
theorem decodeOpcode_of_undefined {b : Byte} (h0 : b ≠ 0x00) (h1 : b ≠ 0x01) (h2 : b ≠ 0x02) (h3 : b ≠ 0x03)
    (h87 : b ≠ 0x87) : decodeOpcode b = .unknown b := by
  simpa only [h0, h1, h2, h3, h87, false_and, false_or, ne_eq, not_false_eq_true, and_self, true_and] using
    decodeOpcode_cases b

/-- Settles O1: the table's five rows by their own equations, and every other byte by `decodeOpcode_of_undefined`. -/
theorem decodeOpcodeMatchesTable : Obligations.DecodeOpcodeMatchesTable :=
  ⟨decodeOpcode_nop, decodeOpcode_mov, decodeOpcode_add, decodeOpcode_sub, decodeOpcode_end,
   fun _ => decodeOpcode_of_undefined⟩

end Sys2Proof
end

section
/-! The family of 40_fetch_decode_execute.md: what a step does to the cursor (R72). -/

namespace Sys2Proof

/-! ### The instruction an opcode byte is dispatched to, and its length -/

/-- An opcode byte other than 0x87 is dispatched to an instruction other than END. -/
theorem withOperand_ne_end {op : Byte} (v : Byte) (he : op ≠ 0x87) : (decodeOpcode op).withOperand v ≠ .end_ := by
  intro hend
  refine he (decodeOpcode_eq_end.mp ?_)
  cases hd : decodeOpcode op with
  | end_ => rfl
  | nop | mov | add | sub | unknown b => rw [hd] at hend; nomatch hend

/-- R50 to R52, R54: the four defined opcodes below 0x04 start an instruction of two bytes, an unknown byte one of a
single byte. -/
theorem length_encode_withOperand {op : Byte} (v : Byte) (he : op ≠ 0x87) :
    (encode ((decodeOpcode op).withOperand v)).length = if op.toNat ≤ 3 then 2 else 1 := by
  obtain ⟨rfl, -⟩ | ⟨rfl, -⟩ | ⟨rfl, -⟩ | ⟨rfl, -⟩ | ⟨h87, -⟩ | ⟨⟨h0, h1, h2, h3, -⟩, hd⟩ := decodeOpcode_cases op
  · rfl
  · rfl
  · rfl
  · rfl
  · exact absurd h87 he
  · have habove : ¬ op.toNat ≤ 3 := by bv_omega
    rw [hd, if_neg habove]
    rfl

end Sys2Proof

namespace Sys2Proof.Machine

/-! ### The cursor under a step -/

/-- R72: every instruction but END advances the cursor by its own length. -/
theorem exec_pc {i : Instr} {s t : State} (hi : i ≠ .end_) (h : exec i s = .next t) :
    t.pc = s.pc + (encode i).length := by
  obtain ⟨rfl, -⟩ | ⟨b, rfl, rfl⟩ | ⟨a, rfl, hdata⟩ := exec_cases h
  · exact absurd rfl hi
  · simp [encode]
  · obtain ⟨v, rfl, -⟩ | ⟨v, rfl, -⟩ | ⟨v, rfl, -⟩ | ⟨v, rfl, -⟩ := hdata <;> simp [encode]

/-- R72: a dispatching step advances the cursor by 2 for the opcodes 0x00 to 0x03 and by 1 for an unknown byte. -/
theorem step_pc_of_dispatch {s t : State} {op v : Byte} (hf : s.Fetches op v) (he : op ≠ 0x87)
    (h : step s = .next t) : t.pc = s.pc + if op.toNat ≤ 3 then 2 else 1 := by
  rw [step_dispatch hf he] at h
  rw [exec_pc (withOperand_ne_end v he) h, length_encode_withOperand v he, State.setOpr_pc, State.setIr_pc]

/-- R72, "the only write of pc in the machine": a step that dispatches nothing leaves the cursor. -/
theorem step_pc_of_no_dispatch {s t : State} (hnone : ∀ op v : Byte, s.Fetches op v → op = 0x87)
    (h : step s = .next t) : t.pc = s.pc := by
  obtain ⟨-, rfl⟩ | ⟨-, -, rfl⟩ | ⟨-, -, rfl⟩ | ⟨op, -, -, -, -, rfl⟩ | ⟨op, v, hf, he, -⟩ := step_cases h
  · rfl
  · exact State.halt_pc s
  · simp
  · simp
  · exact absurd (hnone op v hf) he

/-! ### The obligation -/

/-- Settles O25: a dispatching step by the length of its instruction, any other step by the cases of `step_cases`. -/
theorem cursorAdvancesByLength : Obligations.CursorAdvancesByLength :=
  fun _ _ h => ⟨fun _ _ hf he => step_pc_of_dispatch hf he h, fun hnone => step_pc_of_no_dispatch hnone h⟩

end Sys2Proof.Machine
end

section
/-! The family of 41_data_ops.md: arithmetic modulo 256 (R87 to R89), and what a step adds to the count and the cursor. -/

namespace Sys2Proof.Machine

/-! ### The two byte operations (R89) -/

/-- R87: the sum's value; the carry out of bit 7 is lost. -/
theorem toNat_addBytes (a v : Byte) : (addBytes a v).toNat = (a.toNat + v.toNat) % 256 :=
  BitVec.toNat_add a v

/-- R88: the difference's value; a borrow wraps it into 0..255. -/
theorem toNat_subBytes (a v : Byte) :
    ((subBytes a v).toNat : Int) = ((a.toNat : Int) - (v.toNat : Int)) % 256 := by
  have hsub : (subBytes a v).toNat = (256 - v.toNat + a.toNat) % 256 := BitVec.toNat_sub a v
  have hv : v.toNat < 256 := v.isLt
  omega

theorem subBytes_addBytes (a v : Byte) : subBytes (addBytes a v) v = a :=
  BitVec.add_sub_cancel a v

theorem addBytes_zero (a : Byte) : addBytes a 0 = a :=
  BitVec.add_zero a

theorem subBytes_self (a : Byte) : subBytes a a = 0 :=
  BitVec.sub_self a

/-- The byte `(256 - v) mod 256` is the negation of `v`. -/
theorem ofNat_complement_eq_neg (v : Byte) : BitVec.ofNat 8 ((256 - v.toNat) % 256) = -v := by
  apply BitVec.eq_of_toNat_eq
  simp

/-- Adding a byte is subtracting its complement to 256. -/
theorem addBytes_eq_subBytes_complement (a v : Byte) :
    addBytes a v = subBytes a (BitVec.ofNat 8 ((256 - v.toNat) % 256)) := by
  rw [ofNat_complement_eq_neg]
  exact BitVec.sub_neg.symm

/-! ### The count under a step -/

/-- R71: every instruction but END counts itself. -/
theorem exec_cycleCount {i : Instr} {s t : State} (hi : i ≠ .end_) (h : exec i s = .next t) :
    t.cycleCount = s.cycleCount + 1 := by
  obtain ⟨rfl, -⟩ | ⟨b, -, rfl⟩ | ⟨a, rfl, -⟩ := exec_cases h
  · exact absurd rfl hi
  · simp
  · simp

/-- R71: a step adds 0 or 1 to the count: 1 where it dispatches an instruction. -/
theorem step_cycleCount {s t : State} (h : step s = .next t) :
    t.cycleCount = s.cycleCount ∨ t.cycleCount = s.cycleCount + 1 := by
  obtain ⟨-, rfl⟩ | ⟨-, -, rfl⟩ | ⟨-, -, rfl⟩ | ⟨op, -, -, -, -, rfl⟩ | ⟨op, v, -, he, hexec⟩ := step_cases h
  · exact .inl rfl
  · exact .inl (State.halt_cycleCount s)
  · exact .inl (by simp)
  · exact .inl (by simp)
  · exact .inr (by simpa using exec_cycleCount (withOperand_ne_end v he) hexec)

/-! ### The cursor under a step -/

/-- R72: a step adds 0, 1 or 2 to the cursor: the dispatched instruction's length, or nothing. -/
theorem step_pc {s t : State} (h : step s = .next t) :
    t.pc = s.pc ∨ t.pc = s.pc + 1 ∨ t.pc = s.pc + 2 := by
  by_cases hd : ∃ op v : Byte, s.Fetches op v ∧ op ≠ 0x87
  · obtain ⟨op, v, hf, he⟩ := hd
    have hpc := step_pc_of_dispatch hf he h
    split at hpc
    · exact .inr (.inr hpc)
    · exact .inr (.inl hpc)
  · push Not at hd
    exact .inl (step_pc_of_no_dispatch hd h)

/-! ### The obligation -/

/-- Settles O19: the two values and the four laws of R89, and what the cases of a step add to the count and the cursor. -/
theorem arithmeticWrapsModulo256 : Obligations.ArithmeticWrapsModulo256 :=
  ⟨fun a v => ⟨toNat_addBytes a v, toNat_subBytes a v, subBytes_addBytes a v, addBytes_zero a, subBytes_self a,
    addBytes_eq_subBytes_complement a v⟩,
   fun _ _ h => ⟨step_cycleCount h, step_pc h⟩⟩

end Sys2Proof.Machine
end

section
/-! The family of 30_encoding.md, continued: decode and encode are inverse to each other (R50 to R58). -/

namespace Sys2Proof

/-! ### The decoder on a byte stream, by its opcode's format -/

/-- R50: no opcode byte, no instruction. -/
theorem decode_nil : decode [] = .error .noOpcode := rfl

/-- R51: format OI takes the byte after the opcode. -/
theorem decode_with_operand {op : Byte} (h : (decodeOpcode op).hasOperand = true) (v : Byte) (rest : List Byte) :
    decode (op :: v :: rest) = .ok ((decodeOpcode op).withOperand v, rest) := by
  simp [decode, h]

/-- R51: format OI is rejected when the byte after the opcode is missing. -/
theorem decode_operand_missing {op : Byte} (h : (decodeOpcode op).hasOperand = true) :
    decode [op] = .error .noOperand := by
  simp [decode, h]

/-- An opcode of format O ignores the byte it is paired with. -/
theorem withOperand_of_no_operand {o : Opcode} (h : o.hasOperand = false) (v w : Byte) :
    o.withOperand v = o.withOperand w := by
  cases o with
  | nop | mov | add | sub => nomatch h
  | end_ | unknown b => rfl

/-- R52: format O is the opcode byte alone; it answers the same instruction with any byte as its operand. -/
theorem decode_without_operand {op : Byte} (h : (decodeOpcode op).hasOperand = false) (v : Byte) (rest : List Byte) :
    decode (op :: rest) = .ok ((decodeOpcode op).withOperand v, rest) := by
  rw [withOperand_of_no_operand h v 0]
  simp [decode, h]

/-- R68 reads the byte after the opcode whatever the format: two bytes decode to the instruction the step runs. -/
theorem decode_pair_fst {op v : Byte} {i : Instr} {rest : List Byte} (h : decode [op, v] = .ok (i, rest)) :
    i = (decodeOpcode op).withOperand v := by
  cases ho : (decodeOpcode op).hasOperand with
  | true =>
    rw [decode_with_operand ho, Except.ok.injEq, Prod.mk.injEq] at h
    exact h.1.symm
  | false =>
    rw [decode_without_operand ho v, Except.ok.injEq, Prod.mk.injEq] at h
    exact h.1.symm

/-! ### The opcode byte and its format -/

/-- R51, R54: the opcodes with an operand are the four bytes 0x00 to 0x03. -/
theorem hasOperand_decodeOpcode (op : Byte) : (decodeOpcode op).hasOperand = true ↔ op.toNat ≤ 3 := by
  obtain ⟨rfl, -⟩ | ⟨rfl, -⟩ | ⟨rfl, -⟩ | ⟨rfl, -⟩ | ⟨rfl, -⟩ | ⟨⟨h0, h1, h2, h3, -⟩, hd⟩ := decodeOpcode_cases op
  · decide
  · decide
  · decide
  · decide
  · decide
  · have habove : ¬ op.toNat ≤ 3 := by bv_omega
    simp [hd, Opcode.hasOperand, habove]

/-- R56: a well-formed UNKNOWN byte is one that the decoder leaves unknown. -/
theorem wellFormed_unknown {b : Byte} : (Instr.unknown b).wellFormed = true ↔ decodeOpcode b = .unknown b := by
  constructor
  · intro h
    simp only [Instr.wellFormed, definedOpcodes, List.contains_cons, List.contains_nil, Bool.not_eq_true',
      Bool.or_eq_false_iff, beq_eq_false_iff_ne] at h
    obtain ⟨h0, h1, h2, h3, h87, -⟩ := h
    exact decodeOpcode_of_undefined h0 h1 h2 h3 h87
  · intro h
    have hwf := wellFormed_withOperand b 0
    rwa [h] at hwf

/-- R54: the encoder writes back the opcode byte the decoder read, and its operand where its format has one. -/
theorem encode_withOperand (op v : Byte) :
    encode ((decodeOpcode op).withOperand v) = if (decodeOpcode op).hasOperand then [op, v] else [op] := by
  obtain ⟨rfl, -⟩ | ⟨rfl, -⟩ | ⟨rfl, -⟩ | ⟨rfl, -⟩ | ⟨rfl, -⟩ | ⟨-, hd⟩ := decodeOpcode_cases op
  · rfl
  · rfl
  · rfl
  · rfl
  · rfl
  · rw [hd]; rfl

/-! ### The obligations -/

/-- Settles O3: by the instruction's format; an UNKNOWN byte is well formed exactly if it decodes to itself. -/
theorem decodeOfEncode : Obligations.DecodeOfEncode := by
  intro i hwf rest
  cases i with
  | nop v => exact decode_with_operand (op := 0x00) rfl v rest
  | mov v => exact decode_with_operand (op := 0x01) rfl v rest
  | add v => exact decode_with_operand (op := 0x02) rfl v rest
  | sub v => exact decode_with_operand (op := 0x03) rfl v rest
  | end_ => exact decode_without_operand (op := 0x87) rfl 0 rest
  | unknown b =>
    have hd : decodeOpcode b = .unknown b := wellFormed_unknown.mp hwf
    have hdec := decode_without_operand (op := b) (by rw [hd]; rfl) 0 rest
    rwa [hd] at hdec

/-- Settles O4: by the opcode's format, with what the encoder makes of the instruction read. -/
theorem encodeOfDecode : Obligations.EncodeOfDecode := by
  intro bs rest i h
  cases bs with
  | nil => nomatch h
  | cons op bs =>
    cases ho : (decodeOpcode op).hasOperand with
    | false =>
      rw [decode_without_operand ho 0, Except.ok.injEq, Prod.mk.injEq] at h
      obtain ⟨rfl, rfl⟩ := h
      exact ⟨wellFormed_withOperand op 0, by simp [encode_withOperand, ho]⟩
    | true =>
      cases bs with
      | nil => rw [decode_operand_missing ho] at h; nomatch h
      | cons v bs =>
        rw [decode_with_operand ho, Except.ok.injEq, Prod.mk.injEq] at h
        obtain ⟨rfl, rfl⟩ := h
        exact ⟨wellFormed_withOperand op v, by simp [encode_withOperand, ho]⟩

/-- Settles O5: only no bytes, or a lone opcode byte of format OI, are rejected; every other stream decodes. -/
theorem decodeRejectsOnlyTruncatedBytes : Obligations.DecodeRejectsOnlyTruncatedBytes := by
  intro bs e
  cases bs with
  | nil => simp [decode_nil, eq_comm]
  | cons op bs =>
    have hfmt := hasOperand_decodeOpcode op
    cases ho : (decodeOpcode op).hasOperand with
    | false =>
      have habove : ¬ op.toNat ≤ 3 := fun hle => by simp [hfmt.mpr hle] at ho
      simp [decode_without_operand ho 0, habove]
    | true =>
      cases bs with
      | nil => simp [decode_operand_missing ho, hfmt.mp ho, eq_comm]
      | cons v bs => simp [decode_with_operand ho]

/-- Settles O2: the decoder evaluated on the six written-out streams. -/
theorem writtenOutBytesDecode : Obligations.WrittenOutBytesDecode :=
  ⟨rfl, rfl, rfl, rfl, rfl, rfl⟩

end Sys2Proof
end

section
/-! The families of 41_data_ops.md and 42_control_ops.md: what each instruction does from its dispatch on (log 16), and
each instruction's full step. -/

namespace Sys2Proof.Machine

/-! ### The instructions as record updates -/

/-- R87: the sum, as the byte of a natural number. -/
theorem addBytes_eq_ofNat (a v : Byte) : addBytes a v = BitVec.ofNat 8 ((a.toNat + v.toNat) % 256) := by
  apply BitVec.eq_of_toNat_eq
  simp [toNat_addBytes]

/-- R88: the difference, as the byte of an integer. -/
theorem subBytes_eq_ofInt (a v : Byte) :
    subBytes a v = BitVec.ofInt 8 (((a.toNat : Int) - (v.toNat : Int)) % 256) := by
  rw [← toNat_subBytes, BitVec.ofInt_natCast, BitVec.ofNat_toNat, BitVec.setWidth_eq]

/-- R71 to R73 after a write of the accumulator, as one record update. -/
theorem State.retire_setAcc_eq (s : State) (a : Byte) :
    (s.setAcc a).retire 2 = { s with
      acc := a, cycleCount := s.cycleCount + 1, pc := s.pc + 2,
      running := s.running && decide (s.pc + 2 < s.config.memorySize) } := by
  rw [State.retire_eq]; rfl

/-- R70 to R73 for an unknown byte, as one record update. -/
theorem State.retire_emitDiag_eq (s : State) (b : Byte) :
    (s.emitDiag b).retire 1 = { s with
      cycleCount := s.cycleCount + 1, pc := s.pc + 1,
      running := s.running && decide (s.pc + 1 < s.config.memorySize),
      diag := s.diag ++ (bif s.config.diagEnabled then [{ pc := s.pc, op := b }] else []) } := by
  apply State.ext <;> simp

/-- Settles O7: each data instruction by its equation, with the sum and the difference as the statement writes them. -/
theorem dataInstructionsExecute : Obligations.DataInstructionsExecute := by
  intro s v
  rw [exec_nop, exec_mov, exec_add, exec_sub, State.retire_eq, State.retire_setAcc_eq, State.retire_setAcc_eq,
    State.retire_setAcc_eq, addBytes_eq_ofNat, subBytes_eq_ofInt]
  exact ⟨rfl, rfl, rfl, rfl⟩

/-- Settles O8: END is the halt. -/
theorem endExecutes : Obligations.EndExecutes := exec_end

/-- Settles O9: UNKNOWN is the diagnostic and the retirement by 1. -/
theorem unknownExecutes : Obligations.UnknownExecutes := by
  intro s b
  rw [exec_unknown, State.retire_emitDiag_eq]

/-! ### The frame of an instruction -/

/-- R27: no instruction writes a parameter or a fetch register. -/
theorem exec_frame {i : Instr} {s t : State} (h : exec i s = .next t) :
    t.config = s.config ∧ t.ir = s.ir ∧ t.opr = s.opr := by
  obtain ⟨-, rfl⟩ | ⟨b, -, rfl⟩ | ⟨a, rfl, -⟩ := exec_cases h <;> simp

theorem exec_config {i : Instr} {s t : State} (h : exec i s = .next t) : t.config = s.config :=
  (exec_frame h).1

/-- A read depends on the parameters and Memory only. -/
theorem State.memRead_congr {s t : State} (hc : t.config = s.config) (hm : t.mem = s.mem) (a : Nat) :
    t.memRead a = s.memRead a := by
  simp only [State.memRead, hc, hm]

/-- R10: an instruction other than MOV, ADD and SUB leaves the accumulator. -/
theorem exec_acc {i : Instr} {s t : State} (hmov : ∀ v, i ≠ .mov v) (hadd : ∀ v, i ≠ .add v) (hsub : ∀ v, i ≠ .sub v)
    (h : exec i s = .next t) : t.acc = s.acc := by
  obtain ⟨-, rfl⟩ | ⟨b, -, rfl⟩ | ⟨a, rfl, hdata⟩ := exec_cases h
  · exact State.halt_acc s
  · simp
  · obtain ⟨v, -, rfl⟩ | ⟨v, hi, -⟩ | ⟨v, hi, -⟩ | ⟨v, hi, -⟩ := hdata
    · simp
    · exact absurd hi (hmov v)
    · exact absurd hi (hadd v)
    · exact absurd hi (hsub v)

/-- R23: an instruction other than UNKNOWN emits no diagnostic. -/
theorem exec_diag {i : Instr} {s t : State} (hi : ∀ b, i ≠ .unknown b) (h : exec i s = .next t) : t.diag = s.diag := by
  obtain ⟨-, rfl⟩ | ⟨b, hb, -⟩ | ⟨a, rfl, -⟩ := exec_cases h
  · exact State.halt_diag s
  · exact absurd hb (hi b)
  · simp

/-- R15: no instruction sets `running`. -/
theorem exec_keeps_halted {i : Instr} {s t : State} (hr : s.running = false) (h : exec i s = .next t) :
    t.running = false := by
  obtain ⟨-, rfl⟩ | ⟨b, -, rfl⟩ | ⟨a, rfl, -⟩ := exec_cases h <;> simp [hr]

/-- Settles O10: one lemma per part of the frame; END's cursor and count are those of the halt. -/
theorem instructionFrame : Obligations.InstructionFrame := by
  intro i s t h
  obtain ⟨hconfig, hir, hopr⟩ := exec_frame h
  refine ⟨hconfig, hir, hopr, State.memRead_congr hconfig (exec_mem h), fun hmov hadd hsub => exec_acc hmov hadd hsub h,
    fun hi => exec_diag hi h, ?_, fun hr => exec_keeps_halted hr h⟩
  rintro rfl
  rw [exec_end, Host.Outcome.next.injEq] at h
  subst h
  exact ⟨State.halt_pc s, State.halt_cycleCount s⟩

/-! ### A step by what its fetches find -/

/-- A byte other than the terminator does not decode to END. -/
theorem decodeOpcode_ne_end {op : Byte} (he : op ≠ 0x87) : decodeOpcode op ≠ .end_ :=
  fun h => he (decodeOpcode_eq_end.mp h)

/-- A byte that decodes to UNKNOWN is not the terminator. -/
theorem ne_end_of_unknown {b : Byte} (hd : decodeOpcode b = .unknown b) : b ≠ 0x87 := by
  rintro rfl
  nomatch hd

/-- R67: on the terminator the step is END, and no operand is read. -/
theorem step_end {s : State} (hr : s.running = true) (ho : s.memRead s.pc = .ok 0x87) :
    step s = exec .end_ (s.setIr 0x87) := by
  simp [step, stepLoop, hr, fetchOpcode, ho]

/-- A step that dispatches an instruction has its operand below N. -/
theorem State.Fetches.operand_lt {s : State} {op v : Byte} (hf : s.Fetches op v) :
    s.pc + 1 < s.config.memorySize :=
  (Memory.read_ok.mp hf.2.2).1

/-- R65: the step of a data instruction, given the accumulator its dispatch leaves. -/
theorem step_of_exec_setAcc {s : State} {op v a : Byte} (hf : s.Fetches op v) (he : op ≠ 0x87)
    (hexec : exec ((decodeOpcode op).withOperand v) ((s.setIr op).setOpr v) =
      .next ((((s.setIr op).setOpr v).setAcc a).retire 2)) :
    step s = .next { s with
      ir := op, opr := v, acc := a, cycleCount := s.cycleCount + 1, pc := s.pc + 2,
      running := decide (s.pc + 2 < s.config.memorySize) } := by
  rw [step_dispatch hf he, hexec, State.retire_setAcc_eq]
  simp [hf.1, State.setIr, State.setOpr]

/-- R91: the step on an unknown byte. Its operand lies below N, so the end-of-memory check does not halt. -/
theorem step_unknown {s : State} {b v : Byte} (hd : decodeOpcode b = .unknown b) (hf : s.Fetches b v) :
    step s = .next { s with
      ir := b, opr := v, cycleCount := s.cycleCount + 1, pc := s.pc + 1,
      diag := s.diag ++ (bif s.config.diagEnabled then [{ pc := s.pc, op := b }] else []) } := by
  have hinside : s.pc + 1 < s.config.memorySize := hf.operand_lt
  rw [step_dispatch hf (ne_end_of_unknown hd), hd, Opcode.withOperand, exec_unknown, State.retire_emitDiag_eq]
  simp [hf.1, hinside, State.setIr, State.setOpr]

/-! ### The obligations: each instruction's full step -/

/-- Settles O11: the two bytes decode to the instruction that the step dispatches; END is told by its own byte. -/
theorem stepRunsDecodedInstruction : Obligations.StepRunsDecodedInstruction := by
  constructor
  · intro s op v i rest hr ho hv hdec hi
    have hrun := decode_pair_fst hdec
    have he : op ≠ 0x87 := by
      rintro rfl
      exact hi hrun
    rw [hrun]
    exact step_dispatch ⟨hr, ho, hv⟩ he
  · intro s op rest hr ho hdec
    obtain ⟨-, hbytes⟩ := encodeOfDecode [op] rest .end_ hdec
    obtain rfl : op = 0x87 := (List.cons.inj hbytes).1
    exact step_end hr ho

/-- Settles O12: NOP writes back the accumulator it found; its last-cell halt; zero bytes decode in pairs. -/
theorem nopFullStep : Obligations.NopFullStep :=
  fun _ hr ho => ⟨fun _ hv => step_of_exec_setAcc ⟨hr, ho, hv⟩ (by decide) (exec_nop _ _),
    step_operand_fail hr ho (by decide),
    fun k => decode_with_operand (op := 0x00) rfl 0x00 (List.replicate (2 * k) 0x00)⟩

/-- Settles O13: MOV's accumulator is its operand; its last-cell halt. -/
theorem movFullStep : Obligations.MovFullStep :=
  fun _ hr ho => ⟨fun _ hv => step_of_exec_setAcc ⟨hr, ho, hv⟩ (by decide) (exec_mov _ _),
    step_operand_fail hr ho (by decide)⟩

/-- Settles O14: ADD's accumulator is the sum, which is also a difference; its last-cell halt. -/
theorem addFullStep : Obligations.AddFullStep := by
  refine fun s hr ho => ⟨fun v hv => ⟨?_, addBytes_eq_subBytes_complement s.acc v⟩, step_operand_fail hr ho (by decide)⟩
  rw [← addBytes_eq_ofNat]
  exact step_of_exec_setAcc ⟨hr, ho, hv⟩ (by decide) (exec_add _ _)

/-- Settles O15: SUB's accumulator is the difference; its last-cell halt. -/
theorem subFullStep : Obligations.SubFullStep := by
  refine fun s hr ho => ⟨fun v hv => ?_, step_operand_fail hr ho (by decide)⟩
  rw [← subBytes_eq_ofInt]
  exact step_of_exec_setAcc ⟨hr, ho, hv⟩ (by decide) (exec_sub _ _)

/-- Settles O16: the step on the terminator is END in a state with `ir` written. -/
theorem endFullStep : Obligations.EndFullStep :=
  fun s hr ho => (step_end hr ho).trans (exec_end (s.setIr 0x87))

/-- Settles O17: the step of an unknown byte; its last-cell halt. -/
theorem unknownFullStep : Obligations.UnknownFullStep := by
  intro s b hwf hr ho
  have hd := wellFormed_unknown.mp hwf
  exact ⟨fun v hv => step_unknown hd ⟨hr, ho, hv⟩, step_operand_fail hr ho (ne_end_of_unknown hd)⟩

/-- Settles O18: the cursor after an unknown byte is at the byte that was its operand. -/
theorem byteAfterUnknownIsRefetched : Obligations.ByteAfterUnknownIsRefetched := by
  intro s t b v hwf hf h
  rw [step_unknown (wellFormed_unknown.mp hwf) hf, Host.Outcome.next.injEq] at h
  subst h
  obtain ⟨hr, -, hv⟩ := hf
  refine ⟨hr, rfl, hv, ?_⟩
  rintro rfl
  exact endFullStep _ hr hv

/-- What the decoder reads from a table word is what it reads from the word's two bytes. -/
theorem decodeTableWord_eq_some {nbits w : Nat} {i : Instr} (h : decodeTableWord nbits w = some i) :
    ∃ rest, decode (wordBytes nbits w) = .ok (i, rest) := by
  unfold decodeTableWord at h
  split at h
  · next j rest hdec =>
    obtain rfl : j = i := Option.some.inj h
    exact ⟨rest, hdec⟩
  · nomatch h

/-- Settles O6: the placed word's two bytes are what the step fetches, and they decode to the instruction it runs. -/
theorem placedWordIsTheNextInstruction : Obligations.PlacedWordIsTheNextInstruction := by
  intro s nbits w i hinside hword
  have hf : (s.withFetchWord nbits w).Fetches _ _ := placeWord_fetches nbits w hinside
  obtain ⟨rest, hdec⟩ := decodeTableWord_eq_some hword
  rw [decode_pair_fst hdec]
  generalize BitVec.ofNat 8 (w % 2 ^ nbits) = op at hf ⊢
  generalize BitVec.ofNat 8 (w % 2 ^ nbits / 256) = v at hf ⊢
  by_cases he : op = 0x87
  · subst he
    obtain ⟨hr, ho, -⟩ := hf
    exact ⟨(s.withFetchWord nbits w).setIr 0x87, step_end hr ho, rfl, rfl, rfl, rfl, rfl, rfl⟩
  · exact ⟨((s.withFetchWord nbits w).setIr op).setOpr v, step_dispatch hf he, rfl, rfl, rfl, rfl, rfl, rfl⟩

end Sys2Proof.Machine
end

section
/-! The family of 40_fetch_decode_execute.md, continued: the cases of a step by what its fetches find, and what each
case counts, writes and emits (R65 to R75); with it 60_exceptions.md's conditions (R104 to R107). -/

namespace Sys2Proof.Machine

/-! ### What the two fetches of a step find -/

/-- R65, R105: the ways a step can go, in the loop's order. Unlike `step_cases` these cover the refusals too. -/
inductive FetchCase (s : State) : Prop
  /-- R75: the machine does not run. -/
  | halted (hr : s.running = false)
  /-- R66: the cursor is past the end. -/
  | opcodeOutOfRange (hr : s.running = true) (ho : s.memRead s.pc = .fail .outOfRange)
  /-- Log 1: the opcode's cell holds no value. -/
  | opcodeUnloaded (hr : s.running = true) (ho : s.memRead s.pc = .unloaded)
  /-- R67: the terminator. -/
  | terminator (hr : s.running = true) (ho : s.memRead s.pc = .ok 0x87)
  /-- R68: an opcode other than END in the last cell. -/
  | operandOutOfRange (op : Byte) (hr : s.running = true) (ho : s.memRead s.pc = .ok op) (he : op ≠ 0x87)
      (hv : s.memRead (s.pc + 1) = .fail .outOfRange)
  /-- Log 1: the operand's cell holds no value. -/
  | operandUnloaded (op : Byte) (hr : s.running = true) (ho : s.memRead s.pc = .ok op) (he : op ≠ 0x87)
      (hv : s.memRead (s.pc + 1) = .unloaded)
  /-- R69: both fetches succeed and an instruction is dispatched. -/
  | dispatch (op v : Byte) (hf : s.Fetches op v) (he : op ≠ 0x87)

/-- A read that fails can only be out of range. -/
theorem memRead_fail_outOfRange {s : State} {a : Nat} {c : Condition} (h : s.memRead a = .fail c) :
    s.memRead a = .fail .outOfRange := by
  rw [h, (Memory.read_fail.mp h).2]

/-- Every state's step goes one of the ways of `FetchCase`. -/
theorem fetchCase (s : State) : FetchCase s := by
  cases hr : s.running with
  | false => exact .halted hr
  | true =>
    cases ho : s.memRead s.pc with
    | fail c => exact .opcodeOutOfRange hr (memRead_fail_outOfRange ho)
    | unloaded => exact .opcodeUnloaded hr ho
    | ok op =>
      by_cases he : op = 0x87
      · subst he
        exact .terminator hr ho
      · cases hv : s.memRead (s.pc + 1) with
        | fail c => exact .operandOutOfRange op hr ho he (memRead_fail_outOfRange hv)
        | unloaded => exact .operandUnloaded op hr ho he hv
        | ok v => exact .dispatch op v ⟨hr, ho, hv⟩ he

/-- Log 1: a step that must read its opcode from a cell without a value is refused. -/
theorem step_opcode_unloaded {s : State} (hr : s.running = true) (ho : s.memRead s.pc = .unloaded) :
    step s = .refused .unloadedMemory := by
  simp [step, stepLoop, hr, fetchOpcode, ho]

/-- Log 1: a step that must read its operand from a cell without a value is refused. -/
theorem step_operand_unloaded {s : State} {op : Byte} (hr : s.running = true) (ho : s.memRead s.pc = .ok op)
    (he : op ≠ 0x87) (hv : s.memRead (s.pc + 1) = .unloaded) : step s = .refused .unloadedMemory := by
  simp [step, stepLoop, hr, fetchOpcode, fetchOperand, ho, hv, decodeOpcode_ne_end he]

/-- Two states of which both run or neither, and whose steps read the same bytes, go the same way: what relates the two
ends of every way relates the two steps. -/
theorem step_related {P : Host.Outcome State Fault Refusal → Host.Outcome State Fault Refusal → Prop} {s u : State}
    (hrun : u.running = s.running) (hop : u.memRead u.pc = s.memRead s.pc)
    (hopr : s.memRead s.pc ≠ .ok 0x87 → u.memRead (u.pc + 1) = s.memRead (s.pc + 1))
    (hstay : P (.next s) (.next u)) (hhalt : P (.next s.halt) (.next u.halt))
    (hrefused : P (.refused .unloadedMemory) (.refused .unloadedMemory))
    (hend : ∀ op, P (exec .end_ (s.setIr op)) (exec .end_ (u.setIr op)))
    (hexec : ∀ op v, P (exec ((decodeOpcode op).withOperand v) ((s.setIr op).setOpr v))
      (exec ((decodeOpcode op).withOperand v) ((u.setIr op).setOpr v))) :
    P (step s) (step u) := by
  cases fetchCase s with
  | halted hr => rwa [step_halted hr, step_halted (hrun.trans hr)]
  | opcodeOutOfRange hr ho => rwa [step_opcode_fail hr ho, step_opcode_fail (hrun.trans hr) (hop.trans ho)]
  | opcodeUnloaded hr ho => rwa [step_opcode_unloaded hr ho, step_opcode_unloaded (hrun.trans hr) (hop.trans ho)]
  | terminator hr ho =>
    rw [step_end hr ho, step_end (hrun.trans hr) (hop.trans ho)]
    exact hend 0x87
  | operandOutOfRange op hr ho he hv =>
    have hv' := (hopr (by simpa [ho] using he)).trans hv
    rw [step_operand_fail hr ho he hv, step_operand_fail (hrun.trans hr) (hop.trans ho) he hv']
    exact hend op
  | operandUnloaded op hr ho he hv =>
    have hv' := (hopr (by simpa [ho] using he)).trans hv
    rwa [step_operand_unloaded hr ho he hv, step_operand_unloaded (hrun.trans hr) (hop.trans ho) he hv']
  | dispatch op v hf he =>
    have ⟨hr, ho, hv⟩ := hf
    have hv' := (hopr (by simpa [ho] using he)).trans hv
    rw [step_dispatch hf he, step_dispatch ⟨hrun.trans hr, hop.trans ho, hv'⟩ he]
    exact hexec op v

/-! ### A step that dispatches an instruction -/

/-- R69, R70, R85 to R88, R91: the state after a dispatching step. An unknown byte emits and retires by 1; a data
instruction writes its own value to the accumulator (NOP the old one) and retires by 2. -/
theorem step_dispatched {s t : State} {op v : Byte} (hf : s.Fetches op v) (he : op ≠ 0x87) (h : step s = .next t) :
    (decodeOpcode op = .unknown op ∧ t = (((s.setIr op).setOpr v).emitDiag op).retire 1) ∨
    (∃ a, t = (((s.setIr op).setOpr v).setAcc a).retire 2 ∧
      ((op = 0x00 ∧ a = s.acc) ∨ (op = 0x01 ∧ a = v) ∨ (op = 0x02 ∧ a = addBytes s.acc v) ∨
       (op = 0x03 ∧ a = subBytes s.acc v))) := by
  rw [step_dispatch hf he] at h
  obtain ⟨rfl, -⟩ | ⟨rfl, -⟩ | ⟨rfl, -⟩ | ⟨rfl, -⟩ | ⟨h87, -⟩ | ⟨-, hd⟩ := decodeOpcode_cases op
  · exact .inr ⟨s.acc, (Host.Outcome.next.inj h).symm, .inl ⟨rfl, rfl⟩⟩
  · exact .inr ⟨v, (Host.Outcome.next.inj h).symm, .inr (.inl ⟨rfl, rfl⟩)⟩
  · exact .inr ⟨addBytes s.acc v, (Host.Outcome.next.inj h).symm, .inr (.inr (.inl ⟨rfl, rfl⟩))⟩
  · exact .inr ⟨subBytes s.acc v, (Host.Outcome.next.inj h).symm, .inr (.inr (.inr ⟨rfl, rfl⟩))⟩
  · exact absurd h87 he
  · rw [hd] at h
    exact .inl ⟨hd, (Host.Outcome.next.inj h).symm⟩

/-- R73: a retired state runs exactly if it ran and its new cursor is below N. -/
theorem State.retire_running_iff (s : State) (len : Nat) :
    (s.retire len).running = true ↔ s.running = true ∧ s.pc + len < s.config.memorySize := by
  rw [State.retire_running, Bool.and_eq_true, decide_eq_true_iff]

/-- R69, D4: a dispatching step writes `ir`, counts itself and keeps running exactly while the new cursor is below N. -/
theorem step_dispatched_fields {s t : State} {op v : Byte} (hf : s.Fetches op v) (he : op ≠ 0x87)
    (h : step s = .next t) :
    t.ir = op ∧ t.cycleCount = s.cycleCount + 1 ∧ (t.running = true ↔ t.pc < s.config.memorySize) := by
  have hr : s.running = true := hf.1
  obtain ⟨-, rfl⟩ | ⟨a, rfl, -⟩ := step_dispatched hf he h
  · exact ⟨by simp, by simp, (State.retire_running_iff _ 1).trans (by simp [hr])⟩
  · exact ⟨by simp, by simp, (State.retire_running_iff _ 2).trans (by simp [hr])⟩

/-- R24, R71: a step that dispatches nothing leaves the accumulator, the count and the diagnostic output. -/
theorem step_of_no_dispatch {s t : State} (hnone : ∀ op v : Byte, s.Fetches op v → op = 0x87) (h : step s = .next t) :
    t.acc = s.acc ∧ t.cycleCount = s.cycleCount ∧ t.diag = s.diag := by
  obtain ⟨-, rfl⟩ | ⟨-, -, rfl⟩ | ⟨-, -, rfl⟩ | ⟨op, -, -, -, -, rfl⟩ | ⟨op, v, hf, he, -⟩ := step_cases h
  · exact ⟨rfl, rfl, rfl⟩
  · exact ⟨rfl, rfl, rfl⟩
  · exact ⟨rfl, rfl, rfl⟩
  · exact ⟨rfl, rfl, rfl⟩
  · exact absurd (hnone op v hf) he

/-- Either the step dispatches an instruction, or both fetches succeed on END at most. -/
theorem dispatch_or_not (s : State) :
    (∃ op v : Byte, s.Fetches op v ∧ op ≠ 0x87) ∨ ∀ op v : Byte, s.Fetches op v → op = 0x87 := by
  by_cases hd : ∃ op v : Byte, s.Fetches op v ∧ op ≠ 0x87
  · exact .inl hd
  · push Not at hd
    exact .inr hd

/-! ### The obligations on one step -/

/-- Settles O26: a dispatching step counts itself, and no other step counts. -/
theorem countsExecutedAndSkipped : Obligations.CountsExecutedAndSkipped := by
  refine fun s t h => ⟨⟨fun hcount => ?_, ?_⟩, step_cycleCount h⟩
  · obtain hd | hnone := dispatch_or_not s
    · exact hd
    · obtain ⟨-, hsame, -⟩ := step_of_no_dispatch hnone h
      omega
  · rintro ⟨op, v, hf, he⟩
    exact (step_dispatched_fields hf he h).2.1

/-- Settles O27: the end-of-memory check of the dispatching step. -/
theorem haltsWhenCursorReachesEnd : Obligations.HaltsWhenCursorReachesEnd := by
  intro s t op v hf he h
  obtain ⟨-, -, hrun⟩ := step_dispatched_fields hf he h
  rw [← Bool.not_eq_true, hrun, Nat.not_lt]

/-- Settles O28: an uncounted running step is one of the three halts before the dispatch. -/
theorem haltingStepTouchesOnlyIr : Obligations.HaltingStepTouchesOnlyIr := by
  intro s t hr h hcount
  obtain ⟨hr', -⟩ | ⟨-, hpast, rfl⟩ | ⟨-, ho, rfl⟩ | ⟨op, -, ho, -, -, rfl⟩ | ⟨op, v, hf, he, -⟩ := step_cases h
  · simp [hr] at hr'
  · exact ⟨rfl, fun hin => absurd hpast (Nat.not_le.mpr hin), fun _ => rfl⟩
  · exact ⟨rfl, fun _ => ho, fun hpast => absurd hpast (Nat.not_le.mpr (Memory.read_ok.mp ho).1)⟩
  · exact ⟨rfl, fun _ => ho, fun hpast => absurd hpast (Nat.not_le.mpr (Memory.read_ok.mp ho).1)⟩
  · obtain ⟨-, hcounted, -⟩ := step_dispatched_fields hf he h
    omega

/-- Settles O29: only a dispatched MOV, ADD or SUB writes another value, and it is its own. -/
theorem accumulatorChangesOnlyByMovAddSub : Obligations.AccumulatorChangesOnlyByMovAddSub := by
  intro s t h hacc
  obtain ⟨op, v, hf, he⟩ | hnone := dispatch_or_not s
  · refine ⟨v, ?_⟩
    obtain ⟨-, rfl⟩ | ⟨a, rfl, hdata⟩ := step_dispatched hf he h
    · simp at hacc
    · obtain ⟨rfl, rfl⟩ | ⟨rfl, rfl⟩ | ⟨rfl, rfl⟩ | ⟨rfl, rfl⟩ := hdata
      · simp at hacc
      · exact .inl ⟨hf, by simp⟩
      · exact .inr (.inl ⟨hf, by simpa using toNat_addBytes s.acc v⟩)
      · exact .inr (.inr ⟨hf, by simpa using toNat_subBytes s.acc v⟩)
  · exact absurd (step_of_no_dispatch hnone h).1 hacc

/-- R91: the diagnostic output after a step that dispatches an unknown byte. -/
theorem step_unknown_diag {s t : State} {b v : Byte} (hd : decodeOpcode b = .unknown b) (hf : s.Fetches b v)
    (h : step s = .next t) :
    t.diag = s.diag ++ (bif s.config.diagEnabled then [{ pc := s.pc, op := b }] else []) := by
  rw [step_unknown hd hf] at h
  obtain rfl := Host.Outcome.next.inj h
  rfl

/-- Settles O33: only a dispatched unknown byte reaches the diagnostic, and that emits nothing where DIAG is false. -/
theorem oneDiagnosticPerUnknownStep : Obligations.OneDiagnosticPerUnknownStep := by
  intro s t h
  have hother : (∀ op v : Byte, s.Fetches op v → decodeOpcode op ≠ .unknown op) → t.diag = s.diag := by
    intro hknown
    obtain ⟨op, v, hf, he⟩ | hnone := dispatch_or_not s
    · obtain ⟨hd, -⟩ | ⟨a, rfl, -⟩ := step_dispatched hf he h
      · exact absurd hd (hknown op v hf)
      · simp
    · exact (step_of_no_dispatch hnone h).2.2
  refine ⟨fun op v hf hd hon => ?_, fun hoff => ?_, hother⟩
  · simpa [hon] using step_unknown_diag hd hf h
  · by_cases hunknown : ∃ op v : Byte, s.Fetches op v ∧ decodeOpcode op = .unknown op
    · obtain ⟨op, v, hf, hd⟩ := hunknown
      simpa [hoff] using step_unknown_diag hd hf h
    · push Not at hunknown
      exact hother hunknown

/-! ### Refusals and the conditions -/

/-- Log 1: the step must read a cell below N that holds no value. -/
def State.NeedsUnloaded (s : State) : Prop :=
  s.running = true ∧
    (s.memRead s.pc = .unloaded ∨
      ∃ op : Byte, s.memRead s.pc = .ok op ∧ op ≠ 0x87 ∧ s.memRead (s.pc + 1) = .unloaded)

/-- R116, log 1: a step answers a next state unless it needs a cell without a value; then it is refused. -/
theorem step_answers_or_refused (s : State) :
    (¬ s.NeedsUnloaded ∧ ∃ t, step s = .next t) ∨ (s.NeedsUnloaded ∧ step s = .refused .unloadedMemory) := by
  cases fetchCase s with
  | halted hr => exact .inl ⟨by simp [State.NeedsUnloaded, hr], s, step_halted hr⟩
  | opcodeOutOfRange hr ho => exact .inl ⟨by simp [State.NeedsUnloaded, ho], s.halt, step_opcode_fail hr ho⟩
  | opcodeUnloaded hr ho => exact .inr ⟨⟨hr, .inl ho⟩, step_opcode_unloaded hr ho⟩
  | terminator hr ho => exact .inl ⟨by simp [State.NeedsUnloaded, ho], _, step_end hr ho⟩
  | operandOutOfRange op hr ho he hv =>
    exact .inl ⟨by simp [State.NeedsUnloaded, ho, hv], _, step_operand_fail hr ho he hv⟩
  | operandUnloaded op hr ho he hv => exact .inr ⟨⟨hr, .inr ⟨op, ho, he, hv⟩⟩, step_operand_unloaded hr ho he hv⟩
  | dispatch op v hf he =>
    have ⟨_, ho, hv⟩ := hf
    obtain ⟨t, ht⟩ := exec_answers ((decodeOpcode op).withOperand v) ((s.setIr op).setOpr v)
    exact .inl ⟨by simp [State.NeedsUnloaded, ho, hv], t, (step_dispatch hf he).trans ht⟩

/-- Settles O32: the two outcomes of `step_answers_or_refused`. -/
theorem stepStopsOnlyOnUnloadedMemory : Obligations.StepStopsOnlyOnUnloadedMemory := by
  intro s
  obtain ⟨hloaded, t, ht⟩ | ⟨hneeds, href⟩ := step_answers_or_refused s
  · exact ⟨fun f hf => by simp [ht] at hf, fun r => ⟨fun hr => by simp [ht] at hr, fun ⟨_, hn⟩ => absurd hn hloaded⟩⟩
  · exact ⟨fun f hf => by simp [href] at hf,
      fun r => ⟨fun hr => ⟨by simpa [href, eq_comm] using hr, hneeds⟩, fun ⟨hr, _⟩ => by rw [href, hr]⟩⟩

/-- R104: a halted machine's step meets no condition. -/
theorem stepCondition_halted {s : State} (hr : s.running = false) : s.stepCondition = none := by
  simp [State.stepCondition, hr]

theorem stepCondition_opcode_fail {s : State} {c : Condition} (hr : s.running = true) (ho : s.memRead s.pc = .fail c) :
    s.stepCondition = some c := by
  simp [State.stepCondition, hr, fetchOpcode, ho]

theorem stepCondition_end {s : State} (hr : s.running = true) (ho : s.memRead s.pc = .ok 0x87) :
    s.stepCondition = none := by
  simp [State.stepCondition, hr, fetchOpcode, ho]

theorem stepCondition_operand_fail {s : State} {op : Byte} {c : Condition} (hr : s.running = true)
    (ho : s.memRead s.pc = .ok op) (he : op ≠ 0x87) (hv : s.memRead (s.pc + 1) = .fail c) :
    s.stepCondition = some c := by
  simp [State.stepCondition, hr, fetchOpcode, fetchOperand, ho, hv, decodeOpcode_ne_end he]

theorem stepCondition_dispatch {s : State} {op v : Byte} (hf : s.Fetches op v) (he : op ≠ 0x87) :
    s.stepCondition = if decodeOpcode op = .unknown op then some .unknownOpcode else none := by
  obtain ⟨hr, ho, hv⟩ := hf
  simp [State.stepCondition, hr, fetchOpcode, fetchOperand, ho, hv, decodeOpcode_ne_end he]

/-- Settles O31: the condition of each way a step can go, beside what that step writes. -/
theorem conditionsDecideTheStep : Obligations.ConditionsDecideTheStep := by
  intro s t h
  cases fetchCase s with
  | halted hr =>
    simp [stepCondition_halted hr, hr]
  | opcodeOutOfRange hr ho =>
    obtain rfl := Host.Outcome.next.inj ((step_opcode_fail hr ho).symm.trans h)
    simp [stepCondition_opcode_fail hr ho]
  | opcodeUnloaded hr ho => rw [step_opcode_unloaded hr ho] at h; nomatch h
  | terminator hr ho =>
    obtain rfl := Host.Outcome.next.inj ((step_end hr ho).symm.trans h)
    simp [stepCondition_end hr ho]
  | operandOutOfRange op hr ho he hv =>
    obtain rfl := Host.Outcome.next.inj ((step_operand_fail hr ho he hv).symm.trans h)
    simp [stepCondition_operand_fail hr ho he hv]
  | operandUnloaded op hr ho he hv => rw [step_operand_unloaded hr ho he hv] at h; nomatch h
  | dispatch op v hf he =>
    rw [stepCondition_dispatch hf he]
    obtain ⟨hd, rfl⟩ | ⟨a, rfl, hdata⟩ := step_dispatched hf he h
    · have hr : s.running = true := hf.1
      have hinside : s.pc + 1 < s.config.memorySize := hf.operand_lt
      simp [hd, hr, hinside]
    · obtain ⟨rfl, -⟩ | ⟨rfl, -⟩ | ⟨rfl, -⟩ | ⟨rfl, -⟩ := hdata <;> simp

end Sys2Proof.Machine
end

section
/-! The family of 20_memory.md and 10_state.md, continued: loads (R32), and what a step's outcome depends on: Memory
only through the fetched cells (R24), and neither DIAG nor the diagnostic output (R23). -/

namespace Sys2Proof.Machine

/-! ### Loads -/

theorem Memory.load_exact {n : Nat} {bytes : List Byte} (m : Memory) (h : bytes.length = n) :
    Memory.load n m bytes = { mem := Memory.ofBytes 0 bytes, failure := none } :=
  if_pos h

theorem Memory.load_malformed {n : Nat} {bytes : List Byte} (m : Memory) (h : bytes.length ≠ n) :
    Memory.load n m bytes = { mem := m, failure := some .malformedLoad } :=
  if_neg h

/-- The cells of a loaded image, from index 0 on, hold its bytes. -/
theorem Memory.find_ofBytes_zero (bytes : List Byte) (a : Nat) : Memory.find (Memory.ofBytes 0 bytes) a = bytes[a]? := by
  simpa using Memory.find_ofBytes bytes 0 a

/-- R32, R33: after a load of exactly N bytes every cell reads as its byte. -/
theorem Memory.read_ofBytes {n a : Nat} {bytes : List Byte} {b : Byte} (hlen : bytes.length = n)
    (hb : bytes[a]? = some b) : Memory.read n (Memory.ofBytes 0 bytes) a = .ok b := by
  have hbelow : a < n := hlen ▸ (List.getElem?_eq_some_iff.mp hb).1
  exact Memory.read_ok.mpr ⟨hbelow, (Memory.find_ofBytes_zero bytes a).trans hb⟩

/-- Settles O22: the two cases of a load, with the reads after the first. -/
theorem loadExactlyNBytes : Obligations.LoadExactlyNBytes := by
  constructor
  · intro s bytes hlen
    rw [State.hostLoad, Memory.load_exact s.mem hlen]
    exact ⟨rfl, rfl, fun _ _ hb => Memory.read_ofBytes hlen hb⟩
  · intro s bytes hlen
    rw [State.hostLoad, Memory.load_malformed s.mem hlen]

/-! ### Another Memory under the same fetches -/

@[simp] theorem mapNext_next (f : State → State) (s : State) : mapNext f (.next s) = .next (f s) := rfl
@[simp] theorem mapNext_refused (f : State → State) (r : Refusal) : mapNext f (.refused r) = .refused r := rfl

theorem State.retire_withMem (s : State) (m : Memory) (len : Nat) :
    (s.withMem m).retire len = (s.retire len).withMem m := by
  rw [State.retire_eq, State.retire_eq]; rfl

theorem State.emitDiag_withMem (s : State) (m : Memory) (b : Byte) :
    (s.withMem m).emitDiag b = (s.emitDiag b).withMem m := by
  apply State.ext <;> simp

/-- R24: from its dispatch on, no instruction reads Memory. -/
theorem exec_withMem (i : Instr) (s : State) (m : Memory) :
    exec i (s.withMem m) = mapNext (fun t => t.withMem m) (exec i s) := by
  cases i with
  | nop v => exact congrArg Host.Outcome.next (State.retire_withMem s m 2)
  | mov v => exact congrArg Host.Outcome.next (State.retire_withMem (s.setAcc v) m 2)
  | add v => exact congrArg Host.Outcome.next (State.retire_withMem (s.setAcc (addBytes s.acc v)) m 2)
  | sub v => exact congrArg Host.Outcome.next (State.retire_withMem (s.setAcc (subBytes s.acc v)) m 2)
  | end_ => rfl
  | unknown b => rw [exec_unknown, exec_unknown, State.emitDiag_withMem, State.retire_withMem, mapNext_next]

/-- Settles O24: the two steps are compared by `step_related`, with `exec_withMem` for the dispatched instruction. -/
theorem stepReadsOnlyFetchedCells : Obligations.StepReadsOnlyFetchedCells :=
  fun s m hop hopr => step_related (P := fun o o' => o' = mapNext (fun t => t.withMem m) o) (u := s.withMem m) rfl hop hopr
    rfl rfl rfl (fun op => exec_withMem .end_ (s.setIr op) m)
    (fun op v => exec_withMem ((decodeOpcode op).withOperand v) ((s.setIr op).setOpr v) m)

/-! ### Another DIAG and another diagnostic output -/

theorem State.retire_withDiagnostics (s : State) (e : Bool) (d : List DiagEvent) (len : Nat) :
    (s.withDiagnostics e d).retire len = (s.retire len).withDiagnostics e d := by
  rw [State.retire_eq, State.retire_eq]; rfl

/-- R23: emitting touches the diagnostic output only, whatever DIAG is. -/
theorem State.emitDiag_withDiagnostics (s : State) (e : Bool) (d : List DiagEvent) (b : Byte) :
    ∃ d', (s.withDiagnostics e d).emitDiag b = (s.emitDiag b).withDiagnostics e d' := by
  refine ⟨((s.withDiagnostics e d).emitDiag b).diag, ?_⟩
  apply State.ext <;> simp [State.withDiagnostics]

/-- R23: no instruction reads DIAG or the diagnostic output, but to append to the latter. -/
theorem exec_withDiagnostics (i : Instr) (s : State) (e : Bool) (d : List DiagEvent) :
    ∃ d', exec i (s.withDiagnostics e d) = mapNext (fun t => t.withDiagnostics e d') (exec i s) := by
  cases i with
  | nop v => exact ⟨d, congrArg Host.Outcome.next (State.retire_withDiagnostics s e d 2)⟩
  | mov v => exact ⟨d, congrArg Host.Outcome.next (State.retire_withDiagnostics (s.setAcc v) e d 2)⟩
  | add v => exact ⟨d, congrArg Host.Outcome.next (State.retire_withDiagnostics (s.setAcc (addBytes s.acc v)) e d 2)⟩
  | sub v => exact ⟨d, congrArg Host.Outcome.next (State.retire_withDiagnostics (s.setAcc (subBytes s.acc v)) e d 2)⟩
  | end_ => exact ⟨d, rfl⟩
  | unknown b =>
    obtain ⟨d', hemit⟩ := State.emitDiag_withDiagnostics s e d b
    exact ⟨d', by rw [exec_unknown, exec_unknown, hemit, State.retire_withDiagnostics, mapNext_next]⟩

/-- R23: one step reads neither DIAG nor the diagnostic output so far. -/
theorem step_withDiagnostics (s : State) (e : Bool) (d : List DiagEvent) :
    ∃ d', step (s.withDiagnostics e d) = mapNext (fun t => t.withDiagnostics e d') (step s) :=
  step_related (P := fun o o' => ∃ d', o' = mapNext (fun t => t.withDiagnostics e d') o) (u := s.withDiagnostics e d)
    rfl rfl (fun _ => rfl) ⟨d, rfl⟩ ⟨d, rfl⟩ ⟨d, rfl⟩ (fun op => exec_withDiagnostics .end_ (s.setIr op) e d)
    (fun op v => exec_withDiagnostics ((decodeOpcode op).withOperand v) ((s.setIr op).setOpr v) e d)

/-! ### Runs by their first step -/

/-- A run goes on from the next state. -/
theorem runSteps_next {s t : State} (h : step s = .next t) (k : Nat) : runSteps (k + 1) s = runSteps k t := by
  rw [runSteps_succ, h]

theorem runSteps_refused {s : State} {r : Refusal} (h : step s = .refused r) (k : Nat) :
    runSteps (k + 1) s = .refused r := by
  rw [runSteps_succ, h]

/-- Settles O34: by induction on the number of steps, for every diagnostic output so far. -/
theorem runIgnoresDiagnostics : Obligations.RunIgnoresDiagnostics := by
  intro k
  induction k with
  | zero => exact fun s e d => ⟨d, rfl⟩
  | succ k ih =>
    intro s e d
    obtain ⟨d₁, hstep⟩ := step_withDiagnostics s e d
    cases ht : step s with
    | next t =>
      obtain ⟨d', hrun⟩ := ih t e d₁
      rw [ht, mapNext_next] at hstep
      exact ⟨d', by rw [runSteps_next hstep, runSteps_next ht, hrun]⟩
    | fault r => exact nomatch r
    | refused r =>
      rw [ht, mapNext_refused] at hstep
      exact ⟨d, by rw [runSteps_refused hstep, runSteps_refused ht, mapNext_refused]⟩

/-! ### Memory and the parameters over a run -/

/-- R6: no step writes a parameter. -/
theorem step_config {s t : State} (h : step s = .next t) : t.config = s.config := by
  obtain ⟨-, rfl⟩ | ⟨-, -, rfl⟩ | ⟨-, -, rfl⟩ | ⟨op, -, -, -, -, rfl⟩ | ⟨op, v, -, -, hexec⟩ := step_cases h
  · rfl
  · exact State.halt_config s
  · simp
  · simp
  · simpa using exec_config hexec

/-- R35: the parameters and Memory are the same after any number of steps. -/
theorem runSteps_config_mem {k : Nat} {s t : State} (h : runSteps k s = .next t) :
    t.config = s.config ∧ t.mem = s.mem :=
  runSteps_induction (P := fun u => u.config = s.config ∧ u.mem = s.mem)
    (fun _ _ ⟨hc, hm⟩ hu => ⟨(step_config hu).trans hc, (step_mem hu).trans hm⟩) ⟨rfl, rfl⟩ h

/-- Settles O23: `runSteps_config_mem`, and that a read depends on nothing else. -/
theorem runsKeepMemoryAndParameters : Obligations.RunsKeepMemoryAndParameters := by
  intro k s t h
  obtain ⟨hconfig, hmem⟩ := runSteps_config_mem h
  exact ⟨hconfig, hmem, State.memRead_congr hconfig hmem⟩

end Sys2Proof.Machine
end

section
/-! The families of 10_state.md and 70_reset_and_hazards.md, continued: runs over time (R20, R75), what the Reporter
reads (R22), reset and launch (R120 to R124). -/

namespace Sys2Proof.Machine

/-! ### Runs over time -/

/-- R75: a halted machine's run is at its end. -/
theorem runSteps_halted {s : State} (hr : s.running = false) (k : Nat) : runSteps k s = .next s := by
  induction k with
  | zero => rfl
  | succ k ih => rw [runSteps_next (step_halted hr), ih]

/-- A run of `j + k` steps is a run of `k` steps from where `j` steps have led. -/
theorem runSteps_add {j : Nat} {s t : State} (h : runSteps j s = .next t) (k : Nat) :
    runSteps (j + k) s = runSteps k t := by
  induction j generalizing s with
  | zero =>
    obtain rfl : s = t := Host.Outcome.next.inj h
    rw [Nat.zero_add]
  | succ j ih =>
    rw [Nat.succ_add]
    cases hu : step s with
    | next u =>
      rw [runSteps_next hu] at h ⊢
      exact ih h
    | fault r => exact nomatch r
    | refused r => rw [runSteps_refused hu] at h; nomatch h

/-- Settles O45: the steps after a halt are the run of a halted machine. -/
theorem haltedIsTerminal : Obligations.HaltedIsTerminal :=
  fun _ k _ _ h hr => (runSteps_add h k).trans (runSteps_halted hr k)

/-- R71, R72: a step leaves the count and the cursor, or counts 1 and advances by 1 or 2. -/
theorem step_count_pc {s t : State} (h : step s = .next t) :
    (t.cycleCount = s.cycleCount ∧ t.pc = s.pc) ∨
    (t.cycleCount = s.cycleCount + 1 ∧ s.pc + 1 ≤ t.pc ∧ t.pc ≤ s.pc + 2) := by
  obtain ⟨op, v, hf, he⟩ | hnone := dispatch_or_not s
  · obtain ⟨-, rfl⟩ | ⟨a, rfl, -⟩ := step_dispatched hf he h <;> simp
  · exact .inl ⟨(step_of_no_dispatch hnone h).2.1, step_pc_of_no_dispatch hnone h⟩

/-- R20 (a), (b), (c): over a run the count goes up, and the cursor by at least as much. -/
theorem runSteps_count_pc {k : Nat} {s t : State} (h : runSteps k s = .next t) :
    s.cycleCount ≤ t.cycleCount ∧ t.cycleCount + s.pc ≤ t.pc + s.cycleCount := by
  refine runSteps_induction (P := fun u => s.cycleCount ≤ u.cycleCount ∧ u.cycleCount + s.pc ≤ u.pc + s.cycleCount)
    (fun u w ⟨hle, hbehind⟩ hw => ?_) ⟨Nat.le_refl _, Nat.le_of_eq (Nat.add_comm _ _)⟩ h
  obtain ⟨hcount, hpc⟩ | ⟨hcount, hpc, -⟩ := step_count_pc hw
  · omega
  · omega

/-- Settles O30: the bounds of `runSteps_count_pc`; a halted machine's run. -/
theorem runsAreMonotone : Obligations.RunsAreMonotone := by
  intro k s t h
  obtain ⟨hle, hbehind⟩ := runSteps_count_pc h
  refine ⟨hle, by omega, by omega, fun hr => ?_⟩
  exact Host.Outcome.next.inj (h.symm.trans (runSteps_halted hr k))

/-! ### The Reporter -/

theorem State.report_running {s : State} (hr : s.running = true) : s.report = none := by
  simp [State.report, hr]

theorem State.report_halted {s : State} (hr : s.running = false) :
    s.report = some { cycleCount := s.cycleCount, ir := s.ir, opr := s.opr, acc := s.acc } := by
  simp [State.report, hr]

/-- Settles O35: the report's two cases. -/
theorem reportOnlyWhenHalted : Obligations.ReportOnlyWhenHalted :=
  fun _ => ⟨State.report_running, State.report_halted⟩

/-! ### Reset and launch -/

/-- R36: with nothing loaded, no cell below N holds a value. -/
theorem Memory.read_empty {n a : Nat} (h : a < n) : Memory.read n [] a = .unloaded :=
  Memory.read_unloaded.mpr ⟨h, rfl⟩

/-- Settles O36: the fields of the reset state; a read of its Memory finds no value. -/
theorem resetState : Obligations.ResetState :=
  ⟨rfl, rfl, rfl, rfl, rfl, rfl, rfl, rfl, rfl, fun _ h => Memory.read_empty h⟩

/-- Settles O37: the reset input's fields are those of the reset state; the parameters and Memory are its argument's. -/
theorem cpuResetKeepsMemory : Obligations.CpuResetKeepsMemory :=
  fun _ => ⟨rfl, rfl, rfl, rfl, rfl, rfl, rfl, rfl, fun _ => rfl⟩

/-- R123, R124: the reset state with the parameters asked for and the image in Memory. -/
def State.launched (c : Config) (image : List Byte) : State :=
  { State.reset with config := c, mem := Memory.ofBytes 0 image }

theorem launch_exact {c : Config} {image : List Byte} (h : image.length = c.memorySize) :
    launch c image = .next (State.launched c image) := by
  rw [launch, Memory.load_exact [] h]
  rfl

/-- Settles O38: a load of another length fails, and the launch is refused. -/
theorem malformedLaunchIsRefused : Obligations.MalformedLaunchIsRefused := by
  intro c image h
  rw [launch, Memory.load_malformed [] h]

/-- A machine that runs has no halt to explain. -/
theorem State.haltExplained_of_running {s : State} (hr : s.running = true) : s.HaltExplained :=
  fun hhalted => by simp [hr] at hhalted

/-- Settles O39: the reset state's Memory lists nothing, its cursor and count are 0, and it runs. -/
theorem resetMeetsInvariant : Obligations.ResetMeetsInvariant :=
  ⟨{ memWf := Memory.wf_empty 32
     pcBounded := by decide
     runningInside := by decide
     countBehindPc := by decide
     countBelowSize := by decide },
   State.haltExplained_of_running rfl⟩

/-- R20: the launched state meets the invariant. -/
theorem State.launched_inv {c : Config} {image : List Byte} (hpos : 1 ≤ c.memorySize)
    (hlen : image.length = c.memorySize) : (State.launched c image).Inv where
  memWf := by
    have hwf := Memory.wf_ofBytes image 0
    rwa [Nat.zero_add, hlen] at hwf
  pcBounded := Nat.zero_le _
  runningInside := fun _ => hpos
  countBehindPc := Nat.le_refl 0
  countBelowSize := hpos

/-- R123: an image of N bytes gives every cell a value. -/
theorem State.launched_loaded {c : Config} {image : List Byte} (hlen : image.length = c.memorySize) :
    (State.launched c image).loaded := by
  intro a ha
  have hin : a < image.length := hlen ▸ ha
  change (Memory.find (Memory.ofBytes 0 image) a).isSome = true
  simp [Memory.find_ofBytes_zero, hin]

/-- Settles O40: the launched state, its invariant, its loaded cells and its reads. -/
theorem launchMeetsInvariant : Obligations.LaunchMeetsInvariant :=
  fun c image hpos hlen => ⟨State.launched c image, launch_exact hlen, State.launched_inv hpos hlen,
    State.launched_loaded hlen, rfl, rfl, rfl, rfl, rfl, rfl, rfl, rfl, fun _ _ hb => Memory.read_ofBytes hlen hb⟩

end Sys2Proof.Machine
end

section
/-! The whole machine: the invariant of a run and its halt paths under every step (R20, R77 to R79), and the end of every
run on a loaded Memory (R76, R116). -/

namespace Sys2Proof.Machine

/-! ### The invariant under a step -/

/-- R20: where a dispatching step leaves the cursor, with its operand below N. -/
theorem step_dispatched_pc {s t : State} {op v : Byte} (hf : s.Fetches op v) (he : op ≠ 0x87) (h : step s = .next t) :
    s.pc < t.pc ∧ t.pc ≤ s.config.memorySize := by
  have hinside : s.pc + 1 < s.config.memorySize := hf.operand_lt
  rw [step_pc_of_dispatch hf he h]
  split <;> omega

/-- The invariant depends on no register and on no diagnostic, and halting can only meet it. -/
theorem State.Inv.of_halted {s t : State} (hinv : s.Inv) (hconfig : t.config = s.config) (hmem : t.mem = s.mem)
    (hpc : t.pc = s.pc) (hcount : t.cycleCount = s.cycleCount) (hr : t.running = false) : t.Inv where
  memWf := by rw [hconfig, hmem]; exact hinv.memWf
  pcBounded := by rw [hconfig, hpc]; exact hinv.pcBounded
  runningInside := fun hrun => by simp [hr] at hrun
  countBehindPc := by rw [hpc, hcount]; exact hinv.countBehindPc
  countBelowSize := by rw [hconfig, hcount]; exact hinv.countBelowSize

/-- R79: a dispatching step keeps the invariant; its operand lies below N, so the cursor goes at most to N. -/
theorem State.Inv.of_dispatch {s t : State} {op v : Byte} (hinv : s.Inv) (hf : s.Fetches op v) (he : op ≠ 0x87)
    (h : step s = .next t) : t.Inv := by
  obtain ⟨hmemWf, -, -, hbehind, -⟩ := hinv
  have hinside : s.pc + 1 < s.config.memorySize := hf.operand_lt
  obtain ⟨hpc, hbounded⟩ := step_dispatched_pc hf he h
  obtain ⟨-, hcount, hrun⟩ := step_dispatched_fields hf he h
  have hconfig := step_config h
  exact {
    memWf := by rw [hconfig, step_mem h]; exact hmemWf
    pcBounded := by rw [hconfig]; exact hbounded
    runningInside := by rw [hconfig]; exact hrun.mp
    countBehindPc := by omega
    countBelowSize := by rw [hconfig]; omega }

/-- Settles O41: each case of a step stays, halts where it is, or dispatches. -/
theorem stepKeepsInvariant : Obligations.StepKeepsInvariant := by
  intro s t hinv h
  obtain ⟨-, rfl⟩ | ⟨-, -, rfl⟩ | ⟨-, -, rfl⟩ | ⟨op, -, -, -, -, rfl⟩ | ⟨op, v, hf, he, -⟩ := step_cases h
  · exact hinv
  · exact hinv.of_halted rfl rfl rfl rfl rfl
  · exact hinv.of_halted rfl rfl rfl rfl rfl
  · exact hinv.of_halted rfl rfl rfl rfl rfl
  · exact hinv.of_dispatch hf he h

/-! ### The halt paths -/

theorem State.haltPath_end {s : State} (hr : s.running = false) (hir : s.ir = 0x87) :
    s.haltPath = some .haltEnd := by
  simp [State.haltPath, hr, hir]

theorem State.haltPath_operand {s : State} (hr : s.running = false) (hir : s.ir ≠ 0x87)
    (hpc : s.pc < s.config.memorySize) : s.haltPath = some .haltOperand := by
  simp only [State.haltPath, hr, if_neg hir, if_pos hpc]

theorem State.haltPath_pastEnd {s : State} (hr : s.running = false) (hir : s.ir ≠ 0x87)
    (hpc : s.config.memorySize ≤ s.pc) : s.haltPath = some .haltPastEnd := by
  simp only [State.haltPath, hr, if_neg hir, if_neg (Nat.not_lt.mpr hpc)]

/-- R77: a dispatching step halts only on a 2-byte instruction in the last two cells. -/
theorem State.haltExplained_of_dispatch {s t : State} {op v : Byte} (hf : s.Fetches op v) (he : op ≠ 0x87)
    (h : step s = .next t) : t.HaltExplained := by
  intro hhalted
  have hinside : s.pc + 1 < s.config.memorySize := hf.operand_lt
  obtain ⟨hir, -, -⟩ := step_dispatched_fields hf he h
  have hconfig := step_config h
  have hend : s.config.memorySize ≤ t.pc := (haltsWhenCursorReachesEnd s t op v hf he h).mp hhalted
  have hpc := step_pc_of_dispatch hf he h
  split at hpc
  · next hlow =>
    refine ⟨.haltPastEnd, State.haltPath_pastEnd hhalted (hir ▸ he) (hconfig ▸ hend), ?_⟩
    refine ⟨by rw [hconfig]; omega, by omega, ?_, hir ▸ hlow⟩
    rw [State.memRead_congr hconfig (step_mem h), hpc, Nat.add_sub_cancel, hir]
    exact hf.2.1
  · omega

/-- Settles O42: each case of a step; the invariant shuts out a running cursor past the end. -/
theorem stepKeepsHaltExplained : Obligations.StepKeepsHaltExplained := by
  intro s t hinv hexp h
  obtain ⟨-, rfl⟩ | ⟨hr, hpast, -⟩ | ⟨-, ho, rfl⟩ | ⟨op, -, ho, he, hlast, rfl⟩ | ⟨op, v, hf, he, -⟩ := step_cases h
  · exact hexp
  · exact absurd (hinv.runningInside hr) (Nat.not_lt.mpr hpast)
  · exact fun _ => ⟨.haltEnd, State.haltPath_end rfl rfl, (Memory.read_ok.mp ho).1, rfl, ho⟩
  · have hbelow : s.pc < s.config.memorySize := (Memory.read_ok.mp ho).1
    exact fun _ => ⟨.haltOperand, State.haltPath_operand rfl he hbelow, Nat.le_antisymm hbelow hlast, ho, he⟩
  · exact State.haltExplained_of_dispatch hf he h

/-! ### Termination -/

/-- R36: a loaded machine needs no cell without a value. -/
theorem not_needsUnloaded_of_loaded {s : State} (hloaded : s.loaded) : ¬ s.NeedsUnloaded := by
  have hread : ∀ a, s.memRead a ≠ .unloaded := by
    intro a hnone
    obtain ⟨hbelow, hfind⟩ := Memory.read_unloaded.mp hnone
    simpa [hfind] using hloaded a hbelow
  rintro ⟨-, hop | ⟨op, -, -, hopr⟩⟩
  · exact hread _ hop
  · exact hread _ hopr

theorem step_of_loaded {s : State} (hloaded : s.loaded) : ∃ t, step s = .next t := by
  obtain ⟨-, hnext⟩ | ⟨hneeds, -⟩ := step_answers_or_refused s
  · exact hnext
  · exact absurd hneeds (not_needsUnloaded_of_loaded hloaded)

theorem step_keeps_loaded {s t : State} (hloaded : s.loaded) (h : step s = .next t) : t.loaded := by
  rw [State.loaded, step_config h, step_mem h]
  exact hloaded

/-- R76: the variant. A step after which the machine still runs has advanced the cursor. -/
theorem step_advances {s t : State} (h : step s = .next t) (hrun : t.running = true) : s.pc < t.pc := by
  obtain ⟨hr, rfl⟩ | ⟨-, -, rfl⟩ | ⟨-, -, rfl⟩ | ⟨op, -, -, -, -, rfl⟩ | ⟨op, v, hf, he, -⟩ := step_cases h
  · simp [hr] at hrun
  · simp at hrun
  · simp at hrun
  · simp at hrun
  · exact (step_dispatched_pc hf he h).1

/-- R76: as many steps as the cursor has cells before it suffice. -/
theorem runSteps_halts {k : Nat} {s : State} (hinv : s.Inv) (hloaded : s.loaded)
    (hk : s.config.memorySize ≤ s.pc + k) : ∃ t, runSteps k s = .next t ∧ t.running = false ∧ t.Inv := by
  induction k generalizing s with
  | zero =>
    refine ⟨s, rfl, ?_, hinv⟩
    cases hr : s.running with
    | false => rfl
    | true => exact absurd (hinv.runningInside hr) (Nat.not_lt.mpr hk)
  | succ k ih =>
    obtain ⟨u, hu⟩ := step_of_loaded hloaded
    have huinv : u.Inv := stepKeepsInvariant s u hinv hu
    rw [runSteps_next hu]
    cases hr : u.running with
    | false => exact ⟨u, runSteps_halted hr k, hr, huinv⟩
    | true =>
      have hadvance := step_advances hu hr
      exact ih huinv (step_keeps_loaded hloaded hu) (by rw [step_config hu]; omega)

/-- Settles O43: `runSteps_halts` with the cells that are left. -/
theorem everyLoadedRunHalts : Obligations.EveryLoadedRunHalts :=
  fun s hinv hloaded => runSteps_halts hinv hloaded (by have := hinv.pcBounded; omega)

/-- R77, R78: a run from a state whose halt is explained ends in one whose halt is explained. -/
theorem runSteps_keeps_haltExplained {k : Nat} {s t : State} (hinv : s.Inv) (hexp : s.HaltExplained)
    (h : runSteps k s = .next t) : t.HaltExplained :=
  (runSteps_induction (P := fun u => u.Inv ∧ u.HaltExplained)
    (fun u w ⟨hu, hue⟩ hw => ⟨stepKeepsInvariant u w hu hw, stepKeepsHaltExplained u w hu hue hw⟩) ⟨hinv, hexp⟩ h).2

/-- Settles O44: the launched state's run halts (O43), explained (O42), and its Memory still holds the image (O23). -/
theorem everyLaunchEndsExplained : Obligations.EveryLaunchEndsExplained := by
  intro c image hpos hlen
  have hinv := State.launched_inv hpos hlen
  obtain ⟨t, hrun, hhalted, htinv⟩ := everyLoadedRunHalts _ hinv (State.launched_loaded hlen)
  obtain ⟨p, hpath, hholds⟩ :=
    runSteps_keeps_haltExplained hinv (State.haltExplained_of_running rfl) hrun hhalted
  obtain ⟨hconfig, -, hreads⟩ := runsKeepMemoryAndParameters _ _ _ hrun
  have hsize : t.config.memorySize = c.memorySize := congrArg Config.memorySize hconfig
  refine ⟨State.launched c image, t, p, launch_exact hlen, hrun, hhalted, ?_, hpath, hholds,
    hsize ▸ htinv.countBelowSize, hsize ▸ htinv.pcBounded,
    fun a b hb => (hreads a).trans (Memory.read_ofBytes hlen hb)⟩
  rw [State.report_halted hhalted]
  rfl

end Sys2Proof.Machine
end
